-- ==== Sys2Proof/Word.lean ====
section
/-! DEFINITION. The word types of the SCRB raster block (00_scope.md R8, R9). -/

namespace Sys2Proof

/-- A host register, a bus word, a packet word: 32 bits (R8). -/
abbrev Word := BitVec 32

/-- A byte of PIXMEM, a colour component, a palette index, a brush width (R8). -/
abbrev Byte := BitVec 8

/-- A coordinate field: 16 bits, read as two's complement (R8, R78). -/
abbrev Coord := BitVec 16

end Sys2Proof
end

