-- ==== Sys2Proof/Syntax.lean ====
section
/-! DEFINITION. Packets and commands (30_encoding.md R75 to R83): one constructor of `Instr` for each row of
spec/opcode_table.json. -/

namespace Sys2Proof

/-- A packet: four 32-bit words; packet bit `32k + b` is bit `b` of `Wk` (R75). -/
structure Packet where
  w0 : Word
  w1 : Word
  w2 : Word
  w3 : Word
  deriving DecidableEq, Repr

/-- The colour operand of a packet (R79). -/
inductive ColourOperand where
  /-- CSEL = 0: a palette index, 0 to 255 encodable, 0 to 25 legal -/
  | index (idx : Byte)
  /-- CSEL = 1: direct RGB -/
  | rgb (r g b : Byte)
  deriving DecidableEq, Repr

/-- The commands (R82): the fields each one reads (R81), and no others. -/
inductive Instr where
  /-- FILL x, y, colour (R115) -/
  | fill (x y : Coord) (colour : ColourOperand)
  /-- LINE x1, y1, x2, y2, width, colour (R141) -/
  | line (x1 y1 x2 y2 : Coord) (width : Byte) (colour : ColourOperand)
  /-- CLEAR colour (R160) -/
  | clear (colour : ColourOperand)
  /-- SKIP: a packet with an unknown opcode (R83, R161) -/
  | skip (op : Byte)
  deriving DecidableEq, Repr

end Sys2Proof
end

