-- ==== Sys2Proof/WellFormed.lean ====
section
/-! DEFINITION. Which terms of `Instr` a packet can stand for. The operand fields are bit vectors of the
packet's own widths, so the one check is the opcode of a skipped packet (30_encoding.md R82, R83). -/

namespace Sys2Proof

/-- The opcodes that name a command: 0x01, 0x02, 0x03 (R82). -/
def knownOpcode (op : Byte) : Bool := op == 0x01#8 || op == 0x02#8 || op == 0x03#8

/-- A skipped packet's opcode is 0x00 or 0x04 to 0xFF (R83). Operand values that are encodable but illegal
(IDX 26 to 255, WIDTH 0) are well formed: such a packet is pushed and dispatched like any other (R85). -/
def Instr.wellFormed : Instr → Bool
  | .fill _ _ _ => true
  | .line _ _ _ _ _ _ => true
  | .clear _ => true
  | .skip op => !knownOpcode op

end Sys2Proof
end

