-- ==== Sys2Proof/Decode.lean ====
section
/-! DEFINITION. Reading a command from a packet and writing one (30_encoding.md R75 to R86, R88).
Every packet of four words decodes: an unknown opcode is the SKIP row (R83). What is rejected is a
text of bytes or words that is no packet, by name. -/

namespace Sys2Proof

/-- Why bytes or words are not a packet (R75, R86). -/
inductive DecodeError where
  /-- not exactly 16 bytes (four words): a packet is exactly 128 bits -/
  | notOnePacket (length : Nat)
  deriving DecidableEq, Repr

/-- OP = W0[7:0] (R76). -/
def Packet.op (p : Packet) : Byte := p.w0.extractLsb' 0 8

/-- CSEL = W0[8] (R76). -/
def Packet.csel (p : Packet) : Bool := p.w0.getLsbD 8

/-- WIDTH = W0[23:16] (R76). -/
def Packet.width (p : Packet) : Byte := p.w0.extractLsb' 16 8

/-- X1 = W1[15:0] (R77). -/
def Packet.x1 (p : Packet) : Coord := p.w1.extractLsb' 0 16

/-- Y1 = W1[31:16] (R77). -/
def Packet.y1 (p : Packet) : Coord := p.w1.extractLsb' 16 16

/-- X2 = W2[15:0] (R77). -/
def Packet.x2 (p : Packet) : Coord := p.w2.extractLsb' 0 16

/-- Y2 = W2[31:16] (R77). -/
def Packet.y2 (p : Packet) : Coord := p.w2.extractLsb' 16 16

/-- The colour operand in W3, as CSEL says (R79). -/
def Packet.colour (p : Packet) : ColourOperand :=
  if p.csel then .rgb (p.w3.extractLsb' 16 8) (p.w3.extractLsb' 8 8) (p.w3.extractLsb' 0 8)
  else .index (p.w3.extractLsb' 0 8)

/-- The command a packet is (R81, R82): the match is on all 8 bits of OP and on no other bit; every
field a command does not read is dropped (R84). -/
def decodePacket (p : Packet) : Instr :=
  if p.op = 0x01#8 then .fill p.x1 p.y1 p.colour
  else if p.op = 0x02#8 then .line p.x1 p.y1 p.x2 p.y2 p.width p.colour
  else if p.op = 0x03#8 then .clear p.colour
  else .skip p.op

/-- A little-endian word from its four bytes, lowest address first (20_memory.md R53). -/
def wordOfBytes (b0 b1 b2 b3 : Byte) : Word := b3 ++ b2 ++ b1 ++ b0

/-- The four bytes of a little-endian word, lowest address first (20_memory.md R53). -/
def bytesOfWord (w : Word) : List Byte :=
  [w.extractLsb' 0 8, w.extractLsb' 8 8, w.extractLsb' 16 8, w.extractLsb' 24 8]

/-- A packet from its words W0, W1, W2, W3; a packet is exactly four words (R75, R86). -/
def decodeWords : List Word → Except DecodeError Instr
  | [w0, w1, w2, w3] => .ok (decodePacket ⟨w0, w1, w2, w3⟩)
  | ws => .error (.notOnePacket (4 * ws.length))

/-- The command in a text of bytes, each word in the host's byte order (R53, R75). -/
def decode : List Byte → Except DecodeError Instr
  | [a0, a1, a2, a3, b0, b1, b2, b3, c0, c1, c2, c3, d0, d1, d2, d3] =>
    decodeWords [wordOfBytes a0 a1 a2 a3, wordOfBytes b0 b1 b2 b3,
      wordOfBytes c0 c1 c2 c3, wordOfBytes d0 d1 d2 d3]
  | bs => .error (.notOnePacket bs.length)

/-- The packet whose bits are the low `nbits` bits of `w`, every bit above them 0 (R75: packet bit
`32k + b` is bit `b` of `Wk`). -/
def packetOfBits (nbits w : Nat) : Packet :=
  let v := BitVec.ofNat 128 (w % 2 ^ nbits)
  ⟨v.extractLsb' 0 32, v.extractLsb' 32 32, v.extractLsb' 64 32, v.extractLsb' 96 32⟩

/-- The bytes of a packet as the host lays its words out: W0 first, each little-endian. -/
def Packet.bytes (p : Packet) : List Byte :=
  bytesOfWord p.w0 ++ bytesOfWord p.w1 ++ bytesOfWord p.w2 ++ bytesOfWord p.w3

/-- What the decoder reads from a packet given by its bits; a packet has no more than 128. -/
def decodeTableWord (nbits w : Nat) : Option Instr :=
  if nbits ≤ 128 then
    match decode (packetOfBits nbits w).bytes with
    | .ok i => some i
    | .error _ => none
  else none

/-- W0 of R88: `{8'h00, width, 7'b0, csel, op}`. -/
def encodeW0 (op width : Byte) (csel : BitVec 1) : Word :=
  0#8 ++ width ++ 0#7 ++ csel ++ op

/-- A coordinate word of R88: `{y, x}`. -/
def encodeXY (x y : Coord) : Word := y ++ x

/-- `csel(c)` of R88. -/
def ColourOperand.csel : ColourOperand → BitVec 1
  | .index _ => 0#1
  | .rgb _ _ _ => 1#1

/-- `colour(c)` of R88. -/
def ColourOperand.word : ColourOperand → Word
  | .index idx => 0#24 ++ idx
  | .rgb r g b => 0#8 ++ r ++ g ++ b

/-- The packet the assembler writes for a command (R88); for a skipped opcode, `.PKT op, 0, 0, 0`. -/
def encode : Instr → Packet
  | .fill x y c => ⟨encodeW0 0x01#8 0#8 c.csel, encodeXY x y, 0#32, c.word⟩
  | .line x1 y1 x2 y2 width c =>
    ⟨encodeW0 0x02#8 width c.csel, encodeXY x1 y1, encodeXY x2 y2, c.word⟩
  | .clear c => ⟨encodeW0 0x03#8 0#8 c.csel, 0#32, 0#32, c.word⟩
  | .skip op => ⟨encodeW0 op 0#8 0#1, 0#32, 0#32, 0#32⟩

end Sys2Proof
end

