-- ==== Sys2Proof/Config.lean ====
section
/-! DEFINITION. The open parameters of the block (00_scope.md R7). A model takes each as an argument:
they are a field of State that no step changes, so every statement over states holds for every value. -/

namespace Sys2Proof

/-- The parameters of R7. Plain data; `Params.Legal` is R7's legal range. -/
structure Params where
  /-- host address of the block's offset 0 -/
  blockBase : Nat
  /-- largest legal W and largest legal H -/
  maxDim : Nat
  /-- pixel capacity of PIXMEM; largest legal W x H -/
  maxPixels : Nat
  /-- command queue capacity in packets -/
  qdepth : Nat
  /-- fill work-stack capacity in entries -/
  stackDepth : Nat
  deriving DecidableEq, Repr

/-- The legal ranges of R7. -/
abbrev Params.Legal (p : Params) : Prop :=
  p.blockBase % 0x2000000 = 0 ∧
  1 ≤ p.maxDim ∧ p.maxDim ≤ 32767 ∧
  1 ≤ p.maxPixels ∧ p.maxPixels ≤ 0x400000 ∧
  1 ≤ p.qdepth ∧ p.qdepth ≤ 255 ∧
  p.maxPixels ≤ p.stackDepth

/-- The reference values of R7, which the test vectors use. DESIGN CHOICE (log 2): `State.reset` takes
these; `State.powerUp` takes any. unsafe: a statement about `State.reset` alone is about these values. -/
def Params.reference : Params where
  blockBase := 0x40000000
  maxDim := 1024
  maxPixels := 0x100000
  qdepth := 16
  stackDepth := 0x100000

end Sys2Proof
end

