-- ==== Sys2Proof/Machine/State.lean ====
section
/-! DEFINITION. The state of the block (10_state.md R14), as plain data, and the state after reset
(70_reset_and_hazards.md R195 to R198). -/

namespace Sys2Proof.Machine

/-- The error codes ERRCODE holds (60_exceptions.md R172). Codes 4 to 15 are never written (log 19). -/
inductive ErrCode where
  | none
  | config
  | badColor
  | badWidth
  deriving DecidableEq, Repr

/-- The five interrupt sources: the sticky bits of STATUS (R25 to R29), and the bits of IRQ_EN that
enable them (R33). -/
structure Events where
  done : Bool
  err : Bool
  skip : Bool
  idle : Bool
  ovf : Bool
  deriving DecidableEq, Repr

/-- The current-command latch CUR (R41): the dispatched packet and the geometry read at its dispatch. -/
structure Current where
  packet : Packet
  w : BitVec 16
  h : BitVec 16
  deriving DecidableEq, Repr

/-- One host transaction, as the bus carries it (20_memory.md R70). -/
structure Txn where
  /-- bus_we: a write -/
  we : Bool
  /-- bus_addr: the block offset -/
  addr : BitVec 25
  /-- bus_size: 0, 1, 2 for 1, 2, 4 bytes; 3 is BusError -/
  size : BitVec 2
  /-- bus_wdata, in byte lanes -/
  wdata : Word
  deriving DecidableEq, Repr

/-- The outputs bus_ready, bus_err and bus_rdata (R55, R70) after a step. A value of bus_rdata is held
only where the spec gives one; bus_err while bus_ready = 0 is the model's choice (log 9). -/
inductive Response where
  /-- bus_ready = 0: no transaction was done by the last step -/
  | notReady
  /-- bus_ready = 1, bus_err = 0, a read, with bus_rdata -/
  | readData (rdata : Word)
  /-- bus_ready = 1, bus_err = 0, a write -/
  | written
  /-- bus_ready = 1, bus_err = 1, a read: the data is 0 (R55) -/
  | readError
  /-- bus_ready = 1, bus_err = 1, a write -/
  | writeError
  deriving DecidableEq, Repr

/-- What comes next from outside and whose step it is (R62, R64; log 1). A list of these is one
interleaving; every interleaving is some list. -/
inductive Input where
  /-- the host performs a transaction (R6, R62); while it is held (R56) the engine moves -/
  | host (t : Txn)
  /-- the engine takes its enabled step, dispatch or completion (R97, R99) -/
  | engine
  /-- the host form WAIT of 30_encoding.md R89 -/
  | wait
  /-- rst_n is asserted and released (R195); `written` lists the PIXMEM bytes that an abandoned command
  had already written (R198; log 7) -/
  | reset (written : List Nat)
  deriving DecidableEq, Repr

/-- PIXMEM (20_memory.md R50) by (index, byte) pairs in one canonical form: indexes strictly rising and
no pair equal to what an unlisted index reads as. -/
abbrev Memory := List Host.Cell

/-- What an index of PIXMEM that is not listed reads as. DESIGN CHOICE (log 3): 0. R198 leaves PIXMEM
arbitrary at power-up, so `State.powerUp` takes the memory as an argument.
unsafe: for a statement about `State.reset`'s own PIXMEM; none is made. -/
def unlistedByte (_index : Nat) : Byte := 0#8

/-- The canonical form of PIXMEM. -/
abbrev Memory.wf (m : Memory) : Prop :=
  m.Pairwise (fun c d => c.1 < d.1) ∧ ∀ c ∈ m, c.2 ≠ unlistedByte c.1

/-- Why the machine stops. Both are cases that 41_fill.md R121 and R122 show cannot arise: no state that
keeps `Inv` (Safety.lean) raises either. -/
inductive Fault where
  /-- Raised by FILL when a push finds STK full. R121: "a push never finds it full", so the spec gives
  the push no effect there. Only a state with an illegal STACK_DEPTH or a non-empty STK between
  commands raises it. safe: the model stops. -/
  | stackOverflow
  /-- Raised by FILL when STK still holds a pixel after W x H pops. R122: the traversal pops at most |K|
  times. Only a state with a non-empty STK between commands raises it. safe: the model stops. -/
  | traversalUnfinished
  deriving DecidableEq, Repr

/-- Why an instruction has no meaning. -/
inductive Refusal where
  /-- Raised by an arm of `exec` that has no meaning yet; no arm of this model is such. safe. -/
  | notModelled (mnemonic : String)
  deriving DecidableEq, Repr

/-- The whole state (R14). ID, CAPS, MAXPIX, DOORBELL, QCOUNT, the palette and irq hold no storage of
their own: they are read from these fields and constants. -/
structure State where
  /-- the parameters of R7; no step changes them -/
  params : Params
  /-- CFG_DIM (R21) -/
  cfgDim : Word
  /-- CTRL.RUN (R22) -/
  run : Bool
  /-- STATUS.BUSY (R24) -/
  busy : Bool
  /-- STATUS.DONE, ERR, SKIP, IDLE, OVF (R25 to R29) -/
  events : Events
  /-- STATUS.CHANGED (R30) -/
  changed : Bool
  /-- STATUS.ERRCODE (R26) -/
  errCode : ErrCode
  /-- IRQ_EN (R33) -/
  irqEn : Events
  /-- FILLCNT (R34) -/
  fillCnt : Word
  /-- SKIPCNT (R35) -/
  skipCnt : Word
  /-- CMD0 (R36) -/
  cmd0 : Word
  /-- CMD1 (R36) -/
  cmd1 : Word
  /-- CMD2 (R36) -/
  cmd2 : Word
  /-- CMD3 (R36) -/
  cmd3 : Word
  /-- the command queue Q, head first (R40) -/
  queue : List Packet
  /-- CUR (R41) -/
  cur : Current
  /-- the fill work stack STK, most recent push first (R42): pixels (x, y) -/
  stk : List (Int × Int)
  /-- PIXMEM (R50) -/
  pixmem : Memory
  /-- the bus outputs (R70) -/
  bus : Response
  /-- the MODEL's own field: the inputs still to come, in order (log 1) -/
  inputs : List Input
  deriving DecidableEq, Repr

/-- What an instruction or a step answers. -/
abbrev Result := Host.Outcome State Fault Refusal

/-- No event pending, or none enabled. -/
def Events.none : Events := ⟨false, false, false, false, false⟩

/-- CUR after reset: it holds no command and its contents are not observable (R197). DESIGN CHOICE
(log 4): zeros. unsafe only for a statement about CUR itself; none is made of a state that is not busy. -/
def Current.afterReset : Current := ⟨⟨0#32, 0#32, 0#32, 0#32⟩, 0#16, 0#16⟩

/-- The block right after power-up (R196, R197), for any parameters, any contents of PIXMEM (R198) and
any inputs to come. -/
def State.powerUp (p : Params) (m : Memory) (ins : List Input) : State where
  params := p
  cfgDim := 0#32
  run := false
  busy := false
  events := Events.none
  changed := false
  errCode := .none
  irqEn := Events.none
  fillCnt := 0#32
  skipCnt := 0#32
  cmd0 := 0#32
  cmd1 := 0#32
  cmd2 := 0#32
  cmd3 := 0#32
  queue := []
  cur := Current.afterReset
  stk := []
  pixmem := m
  bus := .notReady
  inputs := ins

/-- The machine right after reset (R196, R197): the reference parameters (log 2), PIXMEM with nothing
listed (log 3), no input to come (log 1). -/
def State.reset : State := State.powerUp Params.reference [] []

end Sys2Proof.Machine
end

