-- ==== Sys2Proof/Machine/Flags.lean ====
section
/-! DEFINITION. STATUS and IRQ_EN (10_state.md R23 to R33), the interrupt output (60_exceptions.md R177),
and what each command and each completion does to the flags (R104, R118, R161). -/

namespace Sys2Proof.Machine

/-- The number ERRCODE shows (60_exceptions.md R172). -/
def ErrCode.bits : ErrCode → BitVec 4
  | .none => 0#4
  | .config => 1#4
  | .badColor => 2#4
  | .badWidth => 3#4

/-- One flag as a bit. -/
def flag (b : Bool) : BitVec 1 := BitVec.ofBool b

/-- The five events at bits 5 to 1: STATUS[5:1] (R23) and IRQ_EN[5:1] (R33). -/
def Events.bits (e : Events) : BitVec 5 :=
  flag e.ovf ++ flag e.idle ++ flag e.skip ++ flag e.err ++ flag e.done

/-- STATUS.QCOUNT (R31). -/
def qcount (s : State) : BitVec 8 := BitVec.ofNat 8 s.queue.length

/-- The word STATUS reads as (R23); reserved bits are 0. -/
def statusWord (s : State) : Word :=
  0#8 ++ qcount s ++ 0#4 ++ s.errCode.bits ++ 0#1 ++ flag s.changed ++ s.events.bits ++ flag s.busy

/-- The word IRQ_EN reads as (R33); reserved bits are 0. -/
def irqEnWord (s : State) : Word := 0#26 ++ s.irqEn.bits ++ 0#1

/-- The IRQ_EN fields of a written word (R33); reserved bits are dropped. -/
def Events.ofWord (v : Word) : Events :=
  ⟨v.getLsbD 1, v.getLsbD 2, v.getLsbD 3, v.getLsbD 4, v.getLsbD 5⟩

/-- The events left after a write of `v` to STATUS: bit `k` of 1 to 5 is cleared where `v[k] = 1` (R32). -/
def Events.clearedBy (e : Events) (v : Word) : Events :=
  ⟨e.done && !v.getLsbD 1, e.err && !v.getLsbD 2, e.skip && !v.getLsbD 3, e.idle && !v.getLsbD 4,
   e.ovf && !v.getLsbD 5⟩

/-- A host write of `v` to STATUS (R32): write-1-to-clear; clearing ERR sets ERRCODE to 0 (R26). -/
def writeStatus (v : Word) (s : State) : State :=
  { s with
    events := s.events.clearedBy v
    errCode := if v.getLsbD 2 then .none else s.errCode }

/-- The interrupt output (60_exceptions.md R177): a function of STATUS and IRQ_EN. -/
def irq (s : State) : Bool :=
  (s.events.done && s.irqEn.done) || (s.events.err && s.irqEn.err) ||
  (s.events.skip && s.irqEn.skip) || (s.events.idle && s.irqEn.idle) ||
  (s.events.ovf && s.irqEn.ovf)

/-- The flags of a FILL that repainted `n` pixels (41_fill.md R118). -/
def setFillResult (n : Nat) (s : State) : State :=
  { s with changed := decide (1 ≤ n), fillCnt := BitVec.ofNat 32 n }

/-- The flags of a skipped packet (43_clear_skip.md R161). -/
def countSkip (s : State) : State :=
  { s with events := { s.events with skip := true }, skipCnt := s.skipCnt + 1#32 }

/-- The bookkeeping of a completion (40_dispatch.md R104). -/
def finishCommand (s : State) : State :=
  { s with
    events := { s.events with done := true, idle := s.events.idle || s.queue.isEmpty }
    busy := false
    stk := [] }

end Sys2Proof.Machine
end

