-- ==== Sys2Proof/Machine/Operands.lean ====
section
/-! DEFINITION. Operand forms: coordinates (30_encoding.md R78), the colour operand and the palette
(10_state.md R38, 40_dispatch.md R102), the brush radius (R80). -/

namespace Sys2Proof.Machine

/-- A colour: three 8-bit components, no alpha (00_scope.md R8, R13). -/
structure Colour where
  r : Byte
  g : Byte
  b : Byte
  deriving DecidableEq, Repr

/-- The palette ROM (10_state.md R38): 26 colours, constant. -/
def palette : List Colour :=
  [⟨255, 255, 255⟩, ⟨193, 193, 193⟩, ⟨239, 19, 11⟩, ⟨255, 113, 0⟩, ⟨255, 228, 0⟩, ⟨0, 204, 0⟩,
   ⟨0, 178, 255⟩, ⟨35, 31, 211⟩, ⟨163, 0, 186⟩, ⟨211, 124, 170⟩, ⟨160, 82, 45⟩, ⟨89, 47, 42⟩,
   ⟨236, 188, 180⟩] ++
  [⟨0, 0, 0⟩, ⟨76, 76, 76⟩, ⟨116, 11, 7⟩, ⟨194, 56, 0⟩, ⟨232, 162, 0⟩, ⟨0, 85, 16⟩, ⟨0, 86, 158⟩,
   ⟨14, 8, 101⟩, ⟨85, 0, 105⟩, ⟨167, 85, 116⟩, ⟨99, 48, 13⟩, ⟨73, 47, 49⟩, ⟨209, 163, 164⟩]

/-- `ResolveColour` (R102): direct RGB always; a palette index of 26 and above is BAD_COLOR (`none`). -/
def resolveColour : ColourOperand → Option Colour
  | .rgb r g b => some ⟨r, g, b⟩
  | .index idx => palette[idx.toNat]?

/-- `sext_16` (00_scope.md R10, R78). -/
def coordValue (v : Coord) : Int := v.toInt

/-- The brush radius `r = width >> 1` (R80). -/
def brushRadius (width : Byte) : Nat := width.toNat >>> 1

/-- The PALETTE register layout `{8'h00, R, G, B}` (10_state.md R39). -/
def Colour.paletteWord (c : Colour) : Word := 0#8 ++ c.r ++ c.g ++ c.b

/-- The pixel word of an opaque pixel, `{255, B, G, R}` (70_reset_and_hazards.md R205). -/
def Colour.pixelWord (c : Colour) : Word := 255#8 ++ c.b ++ c.g ++ c.r

end Sys2Proof.Machine
end

