-- ==== Sys2Proof/Machine/Ops.lean ====
section
/-! DEFINITION. The named operations the commands share: PIXMEM by bytes and by pixels (20_memory.md
R50 to R60), the geometry check and the discard of a command (40_dispatch.md R100, R101,
60_exceptions.md R171), the queue (40_dispatch.md R95 to R98). -/

namespace Sys2Proof.Machine

/-! ### PIXMEM, by bytes -/

/-- One byte of PIXMEM (R50). -/
def Memory.read : Memory → Nat → Byte
  | [], a => unlistedByte a
  | (k, v) :: rest, a => if k = a then v else Memory.read rest a

/-- The memory without an entry at `a`. -/
def Memory.erase (m : Memory) (a : Nat) : Memory := m.filter (fun c => c.1 ≠ a)

/-- Puts an entry before the first one with a higher index. -/
def Memory.insert : Memory → Nat → Byte → Memory
  | [], a, v => [(a, v)]
  | (k, x) :: rest, a, v =>
    if a < k then (a, v) :: (k, x) :: rest else (k, x) :: Memory.insert rest a v

/-- Stores one byte of PIXMEM, keeping the canonical form. -/
def Memory.write (m : Memory) (a : Nat) (v : Byte) : Memory :=
  if v = unlistedByte a then Memory.erase m a else Memory.insert (Memory.erase m a) a v

/-! ### PIXMEM, by pixels -/

/-- `InBounds(x, y)` (00_scope.md R11). -/
def inBounds (w h : Nat) (x y : Int) : Bool :=
  decide (0 ≤ x) && decide (x < w) && decide (0 ≤ y) && decide (y < h)

/-- The index of the first byte of pixel (x, y): `p = 4 x (y x W + x)` (R52). -/
def pixelIndex (w : Nat) (x y : Int) : Nat := 4 * (y.toNat * w + x.toNat)

/-- `RGB(x, y)` (R11, R52). -/
def rgbAt (m : Memory) (w : Nat) (x y : Int) : Colour :=
  let p := pixelIndex w x y
  ⟨Memory.read m p, Memory.read m (p + 1), Memory.read m (p + 2)⟩

/-- The A byte of pixel (x, y) (R52). -/
def alphaAt (m : Memory) (w : Nat) (x y : Int) : Byte := Memory.read m (pixelIndex w x y + 3)

/-- `PixWrite(x, y, c)` (R57): all four bytes, A = 255. -/
def pixWrite (m : Memory) (w : Nat) (x y : Int) (c : Colour) : Memory :=
  let p := pixelIndex w x y
  Memory.write (Memory.write (Memory.write (Memory.write m p c.r) (p + 1) c.g) (p + 2) c.b)
    (p + 3) 255#8

/-- `if InBounds(u, v): PixWrite(u, v, c)` for each pixel of a list, in order (R59). -/
def paintClipped (w h : Nat) (c : Colour) : List (Int × Int) → Memory → Memory
  | [], m => m
  | (u, v) :: rest, m =>
    paintClipped w h c rest (if inBounds w h u v then pixWrite m w u v c else m)

/-! ### Checks and the discard path -/

/-- `ConfigOK(W, H)` (40_dispatch.md R101). -/
def configOk (p : Params) (w h : Nat) : Bool :=
  decide (1 ≤ w) && decide (w ≤ p.maxDim) && decide (1 ≤ h) && decide (h ≤ p.maxDim) &&
    decide (w * h ≤ p.maxPixels)

/-- `record_error(code)` (60_exceptions.md R171): the discard path of a command. This is the block's one
exception: it saves the code and nothing else, vectors nowhere and changes no mode (R179); there is no
return (R180). -/
def recordError (code : ErrCode) (s : State) : State :=
  { s with events := { s.events with err := true }, errCode := code }

/-- The checks every known opcode passes before it draws, in the order of R100: CONFIG, then
BAD_COLOR. `draw` is the rest of the command, with the colour. -/
def withChecks (co : ColourOperand) (s : State) (draw : Colour → Result) : Result :=
  if configOk s.params s.cur.w.toNat s.cur.h.toNat then
    match resolveColour co with
    | some c => draw c
    | none => .next (recordError .badColor s)
  else .next (recordError .config s)

/-! ### The queue and the latch -/

/-- The packet in the staging registers (R36, R95). -/
def stagedPacket (s : State) : Packet := ⟨s.cmd0, s.cmd1, s.cmd2, s.cmd3⟩

/-- A DOORBELL write (40_dispatch.md R95, R96): the staged packet joins the tail of Q, or, Q being full,
is lost and OVF is set. -/
def pushStaged (s : State) : State :=
  if s.queue.length < s.params.qdepth then { s with queue := s.queue ++ [stagedPacket s] }
  else { s with events := { s.events with ovf := true } }

/-- CFG_DIM.W (10_state.md R21). -/
def cfgW (s : State) : BitVec 16 := s.cfgDim.extractLsb' 0 16

/-- CFG_DIM.H (10_state.md R21). -/
def cfgH (s : State) : BitVec 16 := s.cfgDim.extractLsb' 16 16

/-- What dispatch writes but for Q (40_dispatch.md R98): CUR, with the geometry read now; BUSY; STK. -/
def latch (p : Packet) (s : State) : State :=
  { s with cur := ⟨p, cfgW s, cfgH s⟩, busy := true, stk := [] }

end Sys2Proof.Machine
end

