-- ==== Sys2Proof/Machine/Registers.lean ====
section
/-! DEFINITION. The host register map (10_state.md R17 to R39): which register an offset names, what it
reads as and what a write does. Reads have no side effect (20_memory.md R61). -/

namespace Sys2Proof.Machine

/-- The registers of R17's table; an unlisted offset is `unlisted`, which is RAZ/WI. -/
inductive HostReg where
  | id
  | caps
  | maxpix
  | cfgDim
  | ctrl
  | status
  | irqEn
  | fillCnt
  | skipCnt
  | cmd0
  | cmd1
  | cmd2
  | cmd3
  | doorbell
  | palette (i : Nat)
  | unlisted
  deriving DecidableEq, Repr

/-- The constant ID reads as (R18). -/
def idWord : Word := 0x53435242#32

/-- CAPS: `{8'h00, QDEPTH[7:0], MAX_DIM[15:0]}` (R19). -/
def capsWord (p : Params) : Word := 0#8 ++ BitVec.ofNat 8 p.qdepth ++ BitVec.ofNat 16 p.maxDim

/-- The register at an aligned offset of the window 0x000 to 0x0FF (R17, R39). -/
def regAt (off : Nat) : HostReg :=
  if off = 0x000 then .id
  else if off = 0x004 then .caps
  else if off = 0x008 then .maxpix
  else if off = 0x00C then .cfgDim
  else if off = 0x010 then .ctrl
  else if off = 0x014 then .status
  else if off = 0x018 then .irqEn
  else if off = 0x01C then .fillCnt
  else if off = 0x020 then .skipCnt
  else if off = 0x030 then .cmd0
  else if off = 0x034 then .cmd1
  else if off = 0x038 then .cmd2
  else if off = 0x03C then .cmd3
  else if off = 0x040 then .doorbell
  else if 0x080 ≤ off ∧ off < 0x0E8 then .palette ((off - 0x080) / 4)
  else .unlisted

/-- PALETTE[i] (R39): entry `i`, and 0 past the last (RAZ). -/
def paletteReg (i : Nat) : Word :=
  match palette[i]? with
  | some c => c.paletteWord
  | none => 0#32

/-- The word a register reads as. -/
def readReg (s : State) : HostReg → Word
  | .id => idWord
  | .caps => capsWord s.params
  | .maxpix => BitVec.ofNat 32 s.params.maxPixels
  | .cfgDim => s.cfgDim
  | .ctrl => 0#31 ++ flag s.run
  | .status => statusWord s
  | .irqEn => irqEnWord s
  | .fillCnt => s.fillCnt
  | .skipCnt => s.skipCnt
  | .cmd0 => s.cmd0
  | .cmd1 => s.cmd1
  | .cmd2 => s.cmd2
  | .cmd3 => s.cmd3
  | .doorbell => 0#32
  | .palette i => paletteReg i
  | .unlisted => 0#32

/-- What a write of `v` to a register does; a write to a read-only or unlisted register does nothing
(R17). -/
def writeReg (v : Word) (s : State) : HostReg → State
  | .id => s
  | .caps => s
  | .maxpix => s
  | .cfgDim => { s with cfgDim := v }
  | .ctrl => { s with run := v.getLsbD 0 }
  | .status => writeStatus v s
  | .irqEn => { s with irqEn := Events.ofWord v }
  | .fillCnt => s
  | .skipCnt => { s with skipCnt := 0#32 }
  | .cmd0 => { s with cmd0 := v }
  | .cmd1 => { s with cmd1 := v }
  | .cmd2 => { s with cmd2 := v }
  | .cmd3 => { s with cmd3 := v }
  | .doorbell => pushStaged s
  | .palette _ => s
  | .unlisted => s

end Sys2Proof.Machine
end

