-- ==== Sys2Proof/Machine/Bus.lean ====
section
/-! DEFINITION. Host transactions (20_memory.md R51 to R56, R61, R70): the address map, widths and
alignment, BusError, the hold, byte lanes, and the effect of one transaction. -/

namespace Sys2Proof.Machine

/-- The block offset of the PIXMEM aperture (R51). -/
def apertureBase : Nat := 0x1000000

/-- The host address of a block offset (R51). -/
def hostAddress (p : Params) (off : BitVec 25) : Nat := p.blockBase + off.toNat

/-- The block offset a host address falls on, if it is in the block's 32 MiB window (R51). -/
def blockOffset (p : Params) (address : Nat) : Option (BitVec 25) :=
  if p.blockBase ≤ address ∧ address < p.blockBase + 0x2000000 then
    some (BitVec.ofNat 25 (address - p.blockBase))
  else none

/-- The bytes of bus_size 0, 1 and 2; 3 has none (R70). -/
def sizeBytes (size : BitVec 2) : Option Nat :=
  if size = 0#2 then some 1 else if size = 1#2 then some 2 else if size = 2#2 then some 4 else none

/-- What a transaction reaches. -/
inductive Target where
  /-- an aligned 32-bit access to the register window -/
  | register (reg : HostReg)
  /-- `n` bytes of PIXMEM from byte `i`, naturally aligned -/
  | aperture (i n : Nat)
  /-- BusError (R55) -/
  | busError
  deriving DecidableEq, Repr

/-- The address map (R51) with the width and alignment rules (R54). -/
def accessTarget (p : Params) (t : Txn) : Target :=
  match sizeBytes t.size with
  | none => .busError
  | some n =>
    let a := t.addr.toNat
    if a < 0x100 then
      if n = 4 ∧ a % 4 = 0 then .register (regAt a) else .busError
    else if apertureBase ≤ a ∧ a < apertureBase + 4 * p.maxPixels then
      if a % n = 0 then .aperture (a - apertureBase) n else .busError
    else .busError

/-- R56: while BUSY = 1 a read or write of the aperture or of CFG_DIM has no step. A transaction that is
a BusError is not held: DESIGN CHOICE (log 5), the spec does not say which of R55 and R56 is first. -/
def held (t : Txn) (s : State) : Bool :=
  s.busy &&
    match accessTarget s.params t with
    | .register .cfgDim => true
    | .aperture _ _ => true
    | _ => false

/-- Lane `k` of a bus word: bits [8k+7:8k] (R70). -/
def lane (v : Word) (k : Nat) : Byte := v.extractLsb' (8 * k) 8

/-- Whether lane `k` carries one of the `n` bytes of an access at byte `i` (R70): the lanes
`i mod 4` to `i mod 4 + n - 1`. -/
def laneUsed (i n k : Nat) : Bool := decide (i % 4 ≤ k) && decide (k < i % 4 + n)

/-- The byte of PIXMEM that lane `k` of an access at byte `i` carries (R53, R70). -/
def laneIndex (i k : Nat) : Nat := i - i % 4 + k

/-- What lane `k` returns; a lane the access does not use returns 0 (R70). -/
def readLane (m : Memory) (i n k : Nat) : Byte :=
  if laneUsed i n k then Memory.read m (laneIndex i k) else 0#8

/-- bus_rdata of an aperture read (R53, R70). -/
def readLanes (m : Memory) (i n : Nat) : Word :=
  readLane m i n 3 ++ readLane m i n 2 ++ readLane m i n 1 ++ readLane m i n 0

/-- Stores lane `k` of bus_wdata, if the access uses it (R70). -/
def writeLane (i n k : Nat) (v : Word) (m : Memory) : Memory :=
  if laneUsed i n k then Memory.write m (laneIndex i k) (lane v k) else m

/-- An aperture write (R53, R70). -/
def writeLanes (i n : Nat) (v : Word) (m : Memory) : Memory :=
  writeLane i n 3 v (writeLane i n 2 v (writeLane i n 1 v (writeLane i n 0 v m)))

/-- The effect of a transaction that is not held, in one step (R61). BusError changes nothing but the
response (R55). -/
def transact (t : Txn) (s : State) : State :=
  match accessTarget s.params t with
  | .busError => { s with bus := if t.we then .writeError else .readError }
  | .register reg =>
    if t.we then { writeReg t.wdata s reg with bus := .written }
    else { s with bus := .readData (readReg s reg) }
  | .aperture i n =>
    if t.we then { s with pixmem := writeLanes i n t.wdata s.pixmem, bus := .written }
    else { s with bus := .readData (readLanes s.pixmem i n) }

/-! ### The outputs as ports (R70), and the primitives MemRead and MemWrite (00_scope.md R11) -/

/-- bus_ready. -/
def Response.ready : Response → Bool
  | .notReady => false
  | .readData _ => true
  | .written => true
  | .readError => true
  | .writeError => true

/-- bus_err. While bus_ready = 0 it is 0: DESIGN CHOICE (log 9), R70 gives bus_err a meaning only with
bus_ready. unsafe for a statement about bus_err while bus_ready = 0; none is made. -/
def Response.error : Response → Bool
  | .notReady => false
  | .readData _ => false
  | .written => false
  | .readError => true
  | .writeError => true

/-- bus_rdata where the spec gives it a value: a read's data, and 0 for an erroring read (R55). -/
def Response.rdata : Response → Option Word
  | .notReady => none
  | .readData v => some v
  | .written => none
  | .readError => some 0#32
  | .writeError => none

/-- bus_size of an access of `n` bytes. -/
def sizeOfBytes (n : Nat) : BitVec 2 := if n = 1 then 0#2 else if n = 2 then 1#2 else if n = 4 then 2#2 else 3#2

/-- `MemRead(addr, n)` as a transaction (R11). -/
def memReadTxn (addr : BitVec 25) (n : Nat) : Txn := ⟨false, addr, sizeOfBytes n, 0#32⟩

/-- `MemWrite(addr, n, v)` as a transaction (R11): the value in the lanes that bus_addr[1:0] gives (R70). -/
def memWriteTxn (addr : BitVec 25) (n : Nat) (v : Word) : Txn :=
  ⟨true, addr, sizeOfBytes n, v <<< (8 * (addr.toNat % 4))⟩

/-- The value of `MemRead(addr, n)` from bus_rdata: the lanes of the access, moved down (R53, R70). -/
def memReadValue (addr : BitVec 25) (rdata : Word) : Word := rdata >>> (8 * (addr.toNat % 4))

end Sys2Proof.Machine
end

