-- ==== Sys2Proof/Machine/Clear.lean ====
section
/-! DEFINITION. CLEAR (43_clear_skip.md R160). -/

namespace Sys2Proof.Machine

/-- The pixels of the buffer, row by row (R160). -/
def bufferPixels (w h : Nat) : List (Int × Int) :=
  (List.range h).flatMap fun (y : Nat) => (List.range w).map fun (x : Nat) => ((x : Int), (y : Int))

/-- `Clear(c)` (R160): every pixel of the buffer, A = 255 included. -/
def clearTo (c : Colour) (s : State) : State :=
  { s with
    pixmem := paintClipped s.cur.w.toNat s.cur.h.toNat c
      (bufferPixels s.cur.w.toNat s.cur.h.toNat) s.pixmem }

/-- CLEAR colour (R160): CONFIG and BAD_COLOR first (40_dispatch.md R100). -/
def execClear (colour : ColourOperand) (s : State) : Result :=
  withChecks colour s fun c => .next (clearTo c s)

end Sys2Proof.Machine
end

