-- ==== Sys2Proof/Machine/Fill.lean ====
section
/-! DEFINITION. FILL, the flood-fill traverser (41_fill.md R115 to R124). The meaning runs the traversal
of R119 on the work stack STK; that it paints exactly the component of R116 is stated, not assumed. -/

namespace Sys2Proof.Machine

/-- What the traversal of R119 changes: PIXMEM, STK and the count `n`. -/
structure Traversal where
  mem : Memory
  stk : List (Int × Int)
  n : Nat
  deriving DecidableEq, Repr

/-- What stays fixed during one traversal: the latched geometry, the target and fill colours, and the
capacity of STK. -/
structure FillJob where
  w : Nat
  h : Nat
  target : Colour
  colour : Colour
  depth : Nat
  deriving DecidableEq, Repr

/-- `Match(u, v)` (R119, R123): `InBounds` first, then RGB as PIXMEM now stands; A is not compared
(00_scope.md R13). -/
def fillMatches (j : FillJob) (m : Memory) (u v : Int) : Bool :=
  inBounds j.w j.h u v && decide (rgbAt m j.w u v = j.target)

/-- `PixWrite(u, v, c); n <- n + 1`. -/
def fillPaint (j : FillJob) (u v : Int) (t : Traversal) : Traversal :=
  { t with mem := pixWrite t.mem j.w u v j.colour, n := t.n + 1 }

/-- Paint on push: `PixWrite(u, v, c); n <- n + 1; push (u, v)`. A full STK is a fault (R121 shows
that it is never full). -/
def fillPush (j : FillJob) (u v : Int) (t : Traversal) : Except Fault Traversal :=
  if t.stk.length < j.depth then
    let t' := fillPaint j u v t
    .ok { t' with stk := (u, v) :: t'.stk }
  else .error .stackOverflow

/-- The span extension of R119 from `(x, y)`, by `dir` = -1 (`xl`) or 1 (`xr`); `fuel` = W is enough,
since each step enters another column of the buffer. Answers the last column painted. -/
def extendSpan (j : FillJob) (y dir : Int) : Nat → Int → Traversal → Int × Traversal
  | 0, x, t => (x, t)
  | fuel + 1, x, t =>
    if fillMatches j t.mem (x + dir) y then
      extendSpan j y dir fuel (x + dir) (fillPaint j (x + dir) y t)
    else (x, t)

/-- `if Match(u, v): PixWrite(u, v, c); n <- n + 1; push (u, v)`. -/
def fillVisit (j : FillJob) (u v : Int) (t : Traversal) : Except Fault Traversal :=
  if fillMatches j t.mem u v then fillPush j u v t else .ok t

/-- The rows above and below, for `len` columns from `u` on (R119). -/
def scanSpan (j : FillJob) (y : Int) : Nat → Int → Traversal → Except Fault Traversal
  | 0, _, t => .ok t
  | len + 1, u, t =>
    match fillVisit j u (y - 1) t with
    | .error e => .error e
    | .ok t1 =>
      match fillVisit j u (y + 1) t1 with
      | .error e => .error e
      | .ok t2 => scanSpan j y len (u + 1) t2

/-- One turn of the `while` loop of R119, for the pixel popped. -/
def fillPopped (j : FillJob) (px py : Int) (t : Traversal) : Except Fault Traversal :=
  let left := extendSpan j py (-1) j.w px t
  let right := extendSpan j py 1 j.w px left.2
  scanSpan j py (right.1 - left.1 + 1).toNat left.1 right.2

/-- The `while` loop of R119, LIFO. `fuel` = W x H pops are enough (R122). -/
def fillLoop (j : FillJob) : Nat → Traversal → Except Fault Traversal
  | fuel, t =>
    match t.stk with
    | [] => .ok t
    | (px, py) :: rest =>
      match fuel with
      | 0 => .error .traversalUnfinished
      | fuel' + 1 =>
        match fillPopped j px py { t with stk := rest } with
        | .error e => .error e
        | .ok t' => fillLoop j fuel' t'

/-- `FillTraverse(x, y, T, c)` (R119). -/
def fillTraverse (j : FillJob) (x y : Int) (m : Memory) (stk : List (Int × Int)) :
    Except Fault Traversal :=
  match fillPush j x y ⟨m, stk, 0⟩ with
  | .error e => .error e
  | .ok t => fillLoop j (j.w * j.h) t

/-- The traversal that `Fill(x, y, c)` runs in a state (R115, R119). -/
def fillJob (x y : Int) (c : Colour) (s : State) : FillJob where
  w := s.cur.w.toNat
  h := s.cur.h.toNat
  target := rgbAt s.pixmem s.cur.w.toNat x y
  colour := c
  depth := s.params.stackDepth

/-- `Fill(x, y, c)` (R115). -/
def fillAt (x y : Int) (c : Colour) (s : State) : Result :=
  if !inBounds s.cur.w.toNat s.cur.h.toNat x y then .next (setFillResult 0 s)
  else if rgbAt s.pixmem s.cur.w.toNat x y = c then .next (setFillResult 0 s)
  else
    match fillTraverse (fillJob x y c s) x y s.pixmem s.stk with
    | .error e => .fault e
    | .ok t => .next (setFillResult t.n { s with pixmem := t.mem, stk := t.stk })

/-- FILL x, y, colour (R115): CONFIG and BAD_COLOR first (40_dispatch.md R100). -/
def execFill (x y : Coord) (colour : ColourOperand) (s : State) : Result :=
  withChecks colour s fun c => fillAt (coordValue x) (coordValue y) c s

end Sys2Proof.Machine
end

