-- ==== Sys2Proof/Machine/Line.lean ====
section
/-! DEFINITION. LINE, the stamped Bresenham rasterizer (42_line.md R135 to R146). PRESUMED by the spec
itself and fixed by its rules (93_implementation_defined.md GK1, GK2; log 17): the Bresenham variant of
R139 and the thresholds of R136. -/

namespace Sys2Proof.Machine

/-- The class of a stamp cell (R136). -/
inductive CellClass where
  | outside
  | edge
  | interior
  deriving DecidableEq, Repr

/-- The side D of the stamp (R135). -/
def stampSide (r : Nat) : Nat := if r = 0 then 1 else 2 * r

/-- `Class(r, i, j)` (R136). -/
def cellClass (r i j : Nat) : CellClass :=
  let d2 := ((i : Int) - r) ^ 2 + ((j : Int) - r) ^ 2
  if d2 > (r : Int) ^ 2 then .outside
  else if 3 ≤ r ∧ d2 < ((r : Int) - 2) ^ 2 then .interior
  else .edge

/-- The cells of the stamp that a LINE paints (R141): EDGE, and INTERIOR for a dot. -/
def cellPainted (r : Nat) (dot : Bool) (i j : Nat) : Bool :=
  match cellClass r i j with
  | .outside => false
  | .edge => true
  | .interior => dot

/-- The walk of R139 after `dx`, `dy`, `sx`, `sy` are fixed. Each iteration takes a step towards the
end, so `dx + dy` iterations are enough. -/
def traceFrom (dx dy sx sy xb yb : Int) : Nat → Int → Int → Int → List (Int × Int)
  | 0, x, y, _ => [(x, y)]
  | fuel + 1, x, y, err =>
    if x = xb ∧ y = yb then [(x, y)]
    else
      let e2 := 2 * err
      let stepX := decide (e2 > -dy)
      let stepY := decide (e2 < dx)
      (x, y) :: traceFrom dx dy sx sy xb yb fuel
        (if stepX then x + sx else x) (if stepY then y + sy else y)
        (err - (if stepX then dy else 0) + (if stepY then dx else 0))

/-- `Trace(xa, ya, xb, yb)` (R139). -/
def trace (xa ya xb yb : Int) : List (Int × Int) :=
  let dx : Int := (xb - xa).natAbs
  let dy : Int := (yb - ya).natAbs
  traceFrom dx dy (if xa < xb then 1 else -1) (if ya < yb then 1 else -1) xb yb
    (dx + dy).toNat xa ya (dx - dy)

/-- `BoxEmpty` (R144): the box of the endpoints, expanded by `width`, has no pixel of the buffer. -/
def boxEmpty (w h : Nat) (x1 y1 x2 y2 : Int) (width : Nat) : Bool :=
  decide (max x1 x2 + width < 0) || decide ((w : Int) - 1 < min x1 x2 - width) ||
  decide (max y1 y2 + width < 0) || decide ((h : Int) - 1 < min y1 y2 - width)

/-- The stamp's cells `(i, j)`, in the loop order of R141. -/
def stampCells (r : Nat) : List (Nat × Nat) :=
  (List.range (stampSide r)).flatMap fun (i : Nat) =>
    (List.range (stampSide r)).map fun (j : Nat) => (i, j)

/-- The points the loops of R141 visit, in order, before clipping. -/
def strokePoints (x1 y1 x2 y2 : Int) (r : Nat) : List (Int × Int) :=
  ((stampCells r).filter fun c => cellPainted r (decide (x1 = x2 ∧ y1 = y2)) c.1 c.2).flatMap
    fun c => trace (x1 + c.1 - r) (y1 + c.2 - r) (x2 + c.1 - r) (y2 + c.2 - r)

/-- `Line(x1, y1, x2, y2, c, width)` (R141). -/
def lineBetween (x1 y1 x2 y2 : Int) (c : Colour) (width : Byte) (s : State) : State :=
  if boxEmpty s.cur.w.toNat s.cur.h.toNat x1 y1 x2 y2 width.toNat then s
  else { s with
    pixmem := paintClipped s.cur.w.toNat s.cur.h.toNat c
      (strokePoints x1 y1 x2 y2 (brushRadius width)) s.pixmem }

/-- LINE x1, y1, x2, y2, width, colour (R141): CONFIG, BAD_COLOR, then BAD_WIDTH (40_dispatch.md R100,
R103). -/
def execLine (x1 y1 x2 y2 : Coord) (width : Byte) (colour : ColourOperand) (s : State) : Result :=
  withChecks colour s fun c =>
    if width = 0#8 then .next (recordError .badWidth s)
    else .next (lineBetween (coordValue x1) (coordValue y1) (coordValue x2) (coordValue y2) c width s)

end Sys2Proof.Machine
end

