-- ==== Sys2Proof/Machine/Skip.lean ====
section
/-! DEFINITION. A skipped packet (43_clear_skip.md R161). -/

namespace Sys2Proof.Machine

/-- SKIP (R161): STATUS.SKIP and SKIPCNT, whatever the geometry; no other field of the packet is read. -/
def execSkip (_op : Byte) (s : State) : Result := .next (countSkip s)

end Sys2Proof.Machine
end

