-- ==== Sys2Proof/Machine/Dispatch.lean ====
section
/-! DEFINITION. `exec`: what `Execute(CUR)` does for each decoded command (40_dispatch.md R100). The
geometry is the latched one, read from `s.cur`. The bookkeeping of a completion (R104) is not part of it. -/

namespace Sys2Proof.Machine

def exec (i : Instr) (s : State) : Host.Outcome State Fault Refusal :=
  match i with
  | .fill x y colour => Sys2Proof.Machine.execFill x y colour s
  | .line x1 y1 x2 y2 width colour => Sys2Proof.Machine.execLine x1 y1 x2 y2 width colour s
  | .clear colour => Sys2Proof.Machine.execClear colour s
  | .skip op => Sys2Proof.Machine.execSkip op s

end Sys2Proof.Machine
end

