-- ==== Sys2Proof/Machine/Engine.lean ====
section
/-! DEFINITION. The engine's two steps (40_dispatch.md R97 to R104), a reset (70_reset_and_hazards.md R195
to R198), the host's WAIT (30_encoding.md R89), and the choice of the next step (20_memory.md R64). -/

namespace Sys2Proof.Machine

/-- Dispatch is enabled (R97). -/
def dispatchEnabled (s : State) : Bool := s.run && !s.busy && !s.queue.isEmpty

/-- The engine has a step: completion (R99) or dispatch (R97). -/
def engineEnabled (s : State) : Bool := s.busy || dispatchEnabled s

/-- The dispatch step (R98); with an empty queue there is nothing to dispatch. -/
def dispatchHead (s : State) : State :=
  match s.queue with
  | [] => s
  | p :: rest => latch p { s with queue := rest }

/-- The completion step (R99): `Execute(CUR)` (R100), then the bookkeeping of R104. -/
def complete (s : State) : Result :=
  match exec (decodePacket s.cur.packet) s with
  | .next t => .next (finishCommand t)
  | .fault e => .fault e
  | .refused r => .refused r

/-- The engine's turn: its enabled step, or, the engine being idle, nothing (60_exceptions.md R187). No
host transaction is done, so bus_ready is 0 (R70). -/
def engineStep (s : State) : Result :=
  if s.busy then complete { s with bus := .notReady }
  else if dispatchEnabled s then .next (dispatchHead { s with bus := .notReady })
  else .next { s with bus := .notReady }

/-- PIXMEM after a reset that abandons the current command: of the bytes the command writes, those in
`written` hold the new value and the others the old one (R195, R198). -/
def abandonedMemory (old new : Memory) : List Nat → Memory
  | [] => old
  | a :: rest => Memory.write (abandonedMemory old new rest) a (Memory.read new a)

/-- PIXMEM across a reset with power held (R198). -/
def memoryAcrossReset (written : List Nat) (s : State) : Memory :=
  if s.busy then
    match exec (decodePacket s.cur.packet) s with
    | .next t => abandonedMemory s.pixmem t.pixmem written
    | .fault _ => s.pixmem
    | .refused _ => s.pixmem
  else s.pixmem

/-- A reset (R195 to R198): every register and every hidden state at its reset value, PIXMEM kept but
for an abandoned command's bytes. -/
def resetStep (written : List Nat) (s : State) : State :=
  State.powerUp s.params (memoryAcrossReset written s) s.inputs

/-- The completion test of WAIT (R89, R204): BUSY = 0 and QCOUNT = 0. -/
def drained (s : State) : Bool := !s.busy && s.queue.isEmpty

/-- One read of STATUS (R89: RD 0x014). -/
def pollStatus (s : State) : State := { s with bus := .readData (statusWord s) }

/-- One step of WAIT, `rest` being the inputs behind it: the read that finds the block drained ends it;
until then the engine moves where it can, and reads that find it not drained repeat (R89; log 16). -/
def waitStep (rest : List Input) (s : State) : Result :=
  if drained s then .next (pollStatus { s with inputs := rest })
  else if engineEnabled s then engineStep s
  else .next (pollStatus s)

/-- The next step of the interleaving (R64; log 1). A held transaction has no step, so the engine moves
and the transaction stays (R56). With no input left only the engine moves. -/
def nextStep (s : State) : Result :=
  match s.inputs with
  | [] => engineStep s
  | .host t :: rest => if held t s then engineStep s else .next (transact t { s with inputs := rest })
  | .engine :: rest => engineStep { s with inputs := rest }
  | .wait :: rest => waitStep rest s
  | .reset written :: rest => .next (resetStep written { s with inputs := rest })

/-- `s` with a packet where the next step fetches its command, as its dispatch leaves it (R98), the
engine being next to move (log 14). -/
def placeCommand (p : Packet) (s : State) : State :=
  { latch p s with inputs := .engine :: s.inputs }

end Sys2Proof.Machine
end

