-- ==== Sys2Proof/Machine/Step.lean ====
section
/-! DEFINITION. The step function, over the operations of Engine.lean. -/

namespace Sys2Proof.Machine

/-- One step (00_scope.md R6): a host transaction, a dispatch, a completion or a reset. -/
def step (s : State) : Host.Outcome State Fault Refusal := nextStep s

/-- `s` with the instruction whose low bits are `w` in CUR, BUSY = 1 and the engine next to move: where
the completion step fetches its command (40_dispatch.md R99, R100; log 14). -/
def State.withFetchWord (s : State) (nbits w : Nat) : State := placeCommand (packetOfBits nbits w) s

end Sys2Proof.Machine
end

