-- ==== Sys2Proof/Machine/Assembler.lean ====
section
/-! DEFINITION. The host software the spec describes: the assembler (30_encoding.md R87, R88), its
pseudo-instructions DOT and BLANK and the host forms WR, RD, PUSH, WAIT (R89), and the mapping of wire
records to packets (R90). The block itself uses none of it. -/

namespace Sys2Proof.Machine

/-! ### Pseudo-instructions (R89) -/

/-- `DOT x, y, width, colour` is `LINE x, y, x, y, width, colour`. -/
def dotInstr (x y : Coord) (width : Byte) (c : ColourOperand) : Instr := .line x y x y width c

/-- `BLANK` is `CLEAR @0`. -/
def blankInstr : Instr := .clear (.index 0#8)

/-! ### Source statements and their packets (R87, R88) -/

/-- A colour as written: `@n`, or `#RRGGBB`. -/
inductive AsmColour where
  | index (n : Int)
  | rgb (v : Int)
  deriving DecidableEq, Repr

/-- A source statement (R87), operands as the integers written, and the pseudo-instructions (R89). -/
inductive AsmLine where
  | fill (x y : Int) (c : AsmColour)
  | line (x1 y1 x2 y2 width : Int) (c : AsmColour)
  | clear (c : AsmColour)
  | pkt (w0 w1 w2 w3 : Int)
  | dot (x y width : Int) (c : AsmColour)
  | blank
  deriving DecidableEq, Repr

/-- A coordinate operand: -32768 to 32767, its 16-bit two's-complement pattern (R87, R88). -/
def coordOperand (v : Int) : Option Coord :=
  if -32768 ≤ v ∧ v ≤ 32767 then some (BitVec.ofInt 16 v) else none

/-- A width or palette index operand: 0 to 255 (R87). -/
def byteOperand (v : Int) : Option Byte :=
  if 0 ≤ v ∧ v ≤ 255 then some (BitVec.ofInt 8 v) else none

/-- A raw packet word of `.PKT` (R87): 0 to 0xFFFF_FFFF. -/
def wordOperand (v : Int) : Option Word :=
  if 0 ≤ v ∧ v < 0x100000000 then some (BitVec.ofInt 32 v) else none

/-- A colour operand (R87). -/
def colourOperand : AsmColour → Option ColourOperand
  | .index n => (byteOperand n).map .index
  | .rgb v =>
    if 0 ≤ v ∧ v < 0x1000000 then
      let w := BitVec.ofInt 24 v
      some (.rgb (w.extractLsb' 16 8) (w.extractLsb' 8 8) (w.extractLsb' 0 8))
    else none

/-- The packet of a statement (R88, R89); `none` is an assembler error, and nothing is encoded (R87). -/
def assemble : AsmLine → Option Packet
  | .fill x y c => do
    let x ← coordOperand x
    let y ← coordOperand y
    let c ← colourOperand c
    some (encode (.fill x y c))
  | .line x1 y1 x2 y2 width c => do
    let x1 ← coordOperand x1
    let y1 ← coordOperand y1
    let x2 ← coordOperand x2
    let y2 ← coordOperand y2
    let width ← byteOperand width
    let c ← colourOperand c
    some (encode (.line x1 y1 x2 y2 width c))
  | .clear c => do
    let c ← colourOperand c
    some (encode (.clear c))
  | .pkt w0 w1 w2 w3 => do
    let w0 ← wordOperand w0
    let w1 ← wordOperand w1
    let w2 ← wordOperand w2
    let w3 ← wordOperand w3
    some ⟨w0, w1, w2, w3⟩
  | .dot x y width c => do
    let x ← coordOperand x
    let y ← coordOperand y
    let width ← byteOperand width
    let c ← colourOperand c
    some (encode (dotInstr x y width c))
  | .blank => some (encode blankInstr)

/-! ### Reading the text (R87); log 18 -/

/-- The value of a digit in a base. -/
def digitValue (base : Nat) (c : Char) : Option Nat :=
  let v := if '0' ≤ c ∧ c ≤ '9' then c.toNat - 48
    else if 'A' ≤ c ∧ c ≤ 'F' then c.toNat - 55 else base
  if v < base then some v else none

/-- Digits read after `acc`; `_` is a separator without value in a hexadecimal number (00_scope.md R9). -/
def digitsFrom (base acc : Nat) : List Char → Option Nat
  | [] => some acc
  | c :: rest =>
    if c = '_' ∧ base = 16 then digitsFrom base acc rest
    else match digitValue base c with
      | some d => digitsFrom base (base * acc + d) rest
      | none => none

/-- A number starts with a digit. -/
def readNumber (base : Nat) : List Char → Option Nat
  | [] => none
  | c :: rest => if c = '_' then none else digitsFrom base 0 (c :: rest)

/-- An integer operand: decimal with an optional leading `-`, or `0x` hexadecimal (R87). -/
def readInt : List Char → Option Int
  | '-' :: rest => (readNumber 10 rest).map fun n => -(n : Int)
  | '0' :: 'X' :: rest => (readNumber 16 rest).map fun n => (n : Int)
  | cs => (readNumber 10 cs).map fun n => (n : Int)

/-- A colour operand: `@n` or `#RRGGBB`, six hexadecimal digits (R9, R87). -/
def readColour : List Char → Option AsmColour
  | '@' :: rest => (readInt rest).map .index
  | '#' :: rest =>
    if rest.length = 6 ∧ '_' ∉ rest then (readNumber 16 rest).map fun n => .rgb n else none
  | _ => none

/-- White space. -/
def isBlank (c : Char) : Bool := c = ' ' || c = '\t'

/-- The text without white space at its ends. -/
def trimText (cs : List Char) : List Char :=
  ((cs.dropWhile isBlank).reverse.dropWhile isBlank).reverse

/-- The pieces between commas; an empty text has none. -/
def splitCommas : List Char → List (List Char)
  | [] => []
  | c :: rest =>
    match splitCommas rest with
    | [] => if c = ',' then [[], []] else [[c]]
    | piece :: pieces => if c = ',' then [] :: piece :: pieces else (c :: piece) :: pieces

/-- The operands of a statement, trimmed. -/
def operandTexts (cs : List Char) : List (List Char) := (splitCommas (trimText cs)).map trimText

/-- The mnemonic and what follows it, upper case, since both are case-insensitive (R87). -/
def splitMnemonic (cs : List Char) : List Char × List Char :=
  let up := trimText (cs.map Char.toUpper)
  (up.takeWhile fun c => !isBlank c, up.dropWhile fun c => !isBlank c)

/-- A statement from its mnemonic and operands (R87, R89). -/
def readStatement (mnemonic : List Char) (ops : List (List Char)) : Option AsmLine :=
  if mnemonic = ['F', 'I', 'L', 'L'] then
    match ops with
    | [x, y, c] => do some (.fill (← readInt x) (← readInt y) (← readColour c))
    | _ => none
  else if mnemonic = ['L', 'I', 'N', 'E'] then
    match ops with
    | [x1, y1, x2, y2, w, c] => do
      some (.line (← readInt x1) (← readInt y1) (← readInt x2) (← readInt y2) (← readInt w)
        (← readColour c))
    | _ => none
  else if mnemonic = ['C', 'L', 'E', 'A', 'R'] then
    match ops with
    | [c] => do some (.clear (← readColour c))
    | _ => none
  else if mnemonic = ['.', 'P', 'K', 'T'] then
    match ops with
    | [a, b, c, d] => do some (.pkt (← readInt a) (← readInt b) (← readInt c) (← readInt d))
    | _ => none
  else if mnemonic = ['D', 'O', 'T'] then
    match ops with
    | [x, y, w, c] => do some (.dot (← readInt x) (← readInt y) (← readInt w) (← readColour c))
    | _ => none
  else if mnemonic = ['B', 'L', 'A', 'N', 'K'] then
    match ops with
    | [] => some .blank
    | _ => none
  else none

/-- The packet of one line of assembler text; `none` is an assembler error. -/
def assembleText (cs : List Char) : Option Packet := do
  let parts := splitMnemonic cs
  let line ← readStatement parts.1 (operandTexts parts.2)
  assemble line

/-! ### The host forms of programs (R89) -/

/-- A host-side form of R89. They are not packets. -/
inductive HostForm where
  /-- `WR off, v`: 32-bit write -/
  | wr (off : BitVec 25) (v : Word)
  /-- `RD off`: 32-bit read -/
  | rd (off : BitVec 25)
  /-- `PUSH command`: four staging writes and the doorbell -/
  | push (p : Packet)
  /-- `WAIT`: STATUS is read until BUSY = 0 and QCOUNT = 0 -/
  | wait
  deriving DecidableEq, Repr

/-- `WR off, v` as an input. -/
def writeInput (off : BitVec 25) (v : Word) : Input := .host (memWriteTxn off 4 v)

/-- The inputs a host form stands for, in order (R89). -/
def HostForm.inputs : HostForm → List Input
  | .wr off v => [writeInput off v]
  | .rd off => [.host (memReadTxn off 4)]
  | .push p =>
    [writeInput 0x030#25 p.w0, writeInput 0x034#25 p.w1, writeInput 0x038#25 p.w2,
     writeInput 0x03C#25 p.w3, writeInput 0x040#25 0#32]
  | .wait => [.wait]

/-- A block offset operand: 0 to 0x1FF_FFFF. -/
def offsetOperand (v : Int) : Option (BitVec 25) :=
  if 0 ≤ v ∧ v < 0x2000000 then some (BitVec.ofInt 25 v) else none

/-- The text before a comment: `;` and all after it. DEDUCED (log 18): the programs of 95_test_vectors.md
have such comments, and no rule defines them. -/
def withoutComment (cs : List Char) : List Char := cs.takeWhile fun c => c ≠ ';'

/-- One line of a host program (R89). Its white space, and that a `;` opens a comment, are of log 18; a
line with no form on it (blank, or a comment alone) is refused. -/
def readHostForm (cs : List Char) : Option HostForm :=
  let parts := splitMnemonic (withoutComment cs)
  if parts.1 = ['W', 'R'] then
    match operandTexts parts.2 with
    | [off, v] => do
      let off ← offsetOperand (← readInt off)
      let v ← wordOperand (← readInt v)
      some (.wr off v)
    | _ => none
  else if parts.1 = ['R', 'D'] then
    match operandTexts parts.2 with
    | [off] => do
      let off ← offsetOperand (← readInt off)
      some (.rd off)
    | _ => none
  else if parts.1 = ['P', 'U', 'S', 'H'] then (assembleText parts.2).map .push
  else if parts.1 = ['W', 'A', 'I', 'T'] then
    match operandTexts parts.2 with
    | [] => some .wait
    | _ => none
  else none

/-- The inputs of a host program, one form a line (R89). -/
def programInputs : List (List Char) → Option (List Input)
  | [] => some []
  | l :: rest => do
    let form ← readHostForm l
    let more ← programInputs rest
    some (form.inputs ++ more)

/-! ### Wire records (R90) -/

/-- A wire record of the source, its integers as received. -/
inductive WireRecord where
  | fill (x y color : Int)
  | line (x y x2 y2 color width : Int)
  /-- any other `type` -/
  | other
  deriving DecidableEq, Repr

/-- The packet host software pushes for a wire record; `none`: it must refuse the record (R90). -/
def wirePacket : WireRecord → Option Packet
  | .fill x y color => assemble (.fill x y (.index color))
  | .line x y x2 y2 color width => assemble (.line x y x2 y2 width (.index color))
  | .other => some ⟨0xFF#32, 0#32, 0#32, 0#32⟩

end Sys2Proof.Machine
end

