-- ==== Sys2Proof/Safety.lean ====
section
/-! DEFINITION. What the claims speak of: the invariant every state between steps keeps, the component of
a FILL (41_fill.md R116), the pixels of a LINE (42_line.md R141), the bits of a packet a command reads
(30_encoding.md R81), and when two states replay alike (43_clear_skip.md R162). -/

namespace Sys2Proof.Machine

/-! ### The invariant -/

/-- What holds of every state between two steps, beside the counters:
parameters in R7's ranges; PIXMEM in canonical form and inside its `4 x MAX_PIXELS` bytes (R50); at most
QDEPTH packets in Q (R31, R40); STK empty (R42); the latched geometry equal to CFG_DIM while a command
runs (R41); ERRCODE 0 exactly when ERR = 0 (R26). -/
structure Inv (s : State) : Prop where
  paramsLegal : s.params.Legal
  pixmemCanonical : Memory.wf s.pixmem
  pixmemInside : ∀ c ∈ s.pixmem, c.1 < 4 * s.params.maxPixels
  queueBound : s.queue.length ≤ s.params.qdepth
  stkEmpty : s.stk = []
  geometryLatched : s.busy = true → s.cur.w = cfgW s ∧ s.cur.h = cfgH s
  errCodeAgrees : s.events.err = false ↔ s.errCode = .none

/-- The counters of the last FILL: FILLCNT never exceeds MAX_PIXELS (R34), and CHANGED is 1 exactly when
FILLCNT is not 0 (R118). -/
structure CountInv (s : State) : Prop where
  fillCntBound : s.fillCnt.toNat ≤ s.params.maxPixels
  changedAgrees : s.changed = true ↔ s.fillCnt ≠ 0#32

/-! ### FILL -/

/-- The 4-neighbours of a pixel (00_scope.md R12). -/
def Neighbour (u v u' v' : Int) : Prop :=
  (u' = u + 1 ∧ v' = v) ∨ (u' = u - 1 ∧ v' = v) ∨ (u' = u ∧ v' = v + 1) ∨ (u' = u ∧ v' = v - 1)

/-- `Component(x, y, T)` (41_fill.md R116): the smallest set with the rule's two properties, on the
PIXMEM at the start of the command. -/
inductive Component (w h : Nat) (m : Memory) (target : Colour) (x y : Int) : Int → Int → Prop where
  | seed : Component w h m target x y x y
  | spread {u v u' v' : Int} : Component w h m target x y u v → Neighbour u v u' v' →
      inBounds w h u' v' = true → rgbAt m w u' v' = target → Component w h m target x y u' v'

/-! ### LINE -/

/-- The cell is painted: EDGE, or INTERIOR in a dot (R141). -/
def CellChosen (r : Nat) (dot : Prop) (i j : Nat) : Prop :=
  i < stampSide r ∧ j < stampSide r ∧
    (cellClass r i j = .edge ∨ (dot ∧ cellClass r i j = .interior))

/-- The point is on a trace that the LINE walks (R141), before clipping. -/
def OnStroke (x1 y1 x2 y2 : Int) (r : Nat) (u v : Int) : Prop :=
  ∃ i j : Nat, CellChosen r (x1 = x2 ∧ y1 = y2) i j ∧
    (u, v) ∈ trace (x1 + i - r) (y1 + j - r) (x2 + i - r) (y2 + j - r)

/-- The four bytes of a pixel hold the colour, with A = 255 (20_memory.md R57). -/
def PixelIs (m : Memory) (w : Nat) (u v : Int) (c : Colour) : Prop :=
  rgbAt m w u v = c ∧ alphaAt m w u v = 255#8

/-- The byte of PIXMEM is one of the four of pixel (u, v) (R52). -/
def ByteOf (w : Nat) (u v : Int) (a : Nat) : Prop := ∃ k < 4, a = pixelIndex w u v + k

/-! ### Encoding -/

/-- The bits of a packet that its command reads (30_encoding.md R81); every other bit is 0. -/
def readBits (p : Packet) : Packet :=
  let w3 := if p.csel then p.w3 &&& 0x00FFFFFF#32 else p.w3 &&& 0x000000FF#32
  if p.op = 0x01#8 then ⟨p.w0 &&& 0x000001FF#32, p.w1, 0#32, w3⟩
  else if p.op = 0x02#8 then ⟨p.w0 &&& 0x00FF01FF#32, p.w1, p.w2, w3⟩
  else if p.op = 0x03#8 then ⟨p.w0 &&& 0x000001FF#32, 0#32, 0#32, w3⟩
  else ⟨p.w0 &&& 0x000000FF#32, 0#32, 0#32, 0#32⟩

/-! ### Runs -/

/-- The bytes of the current buffer, `0` to `4WH - 1` of the geometry in CFG_DIM (R52). -/
def bufferBytes (s : State) : Nat := 4 * ((cfgW s).toNat * (cfgH s).toNat)

/-- Two states that replay alike (43_clear_skip.md R162): the same geometry, packets and engine phase,
and the same bytes of the buffer; whatever else they hold. -/
structure SameReplay (s t : State) : Prop where
  params : s.params = t.params
  cfgDim : s.cfgDim = t.cfgDim
  run : s.run = t.run
  busy : s.busy = t.busy
  queue : s.queue = t.queue
  cur : s.cur = t.cur
  stk : s.stk = t.stk
  buffer : ∀ a < bufferBytes s, Memory.read s.pixmem a = Memory.read t.pixmem a

/-- A run has ended (70_reset_and_hazards.md R211). DESIGN CHOICE (log 23): no input is left in both of
R211's cases; its second case (RUN = 0 and BUSY = 0) does not say whether the host is silent. -/
def runEnded (s : State) : Prop :=
  s.inputs = [] ∧ (drained s = true ∨ (s.run = false ∧ s.busy = false))

/-- The steps the engine needs to drain the queue: two for a queued packet, one for the current one. -/
def stepsToDrain (s : State) : Nat := 2 * s.queue.length + (if s.busy then 1 else 0)

end Sys2Proof.Machine
end

