-- ==== Sys2Proof/Certificates/Slice0/Obligations.lean ====
section
/-! DEFINITION. The statements for the provers. Each docstring names the rules of spec/ it rests on. -/

open Sys2Proof Sys2Proof.Machine

/-! ### Encoding -/

/-- R81, R82, R88: the packet written for a well-formed command decodes to that command, from its words
and from its bytes. -/
def Obligations.DecodeOfEncodeIsTheCommand : Prop :=
  ∀ i : Instr, i.wellFormed = true →
    decodePacket (encode i) = i ∧ decode (encode i).bytes = .ok i

/-- R81, R84: the bits a command does not read do not change the decoded command, whatever they hold.
(That a step runs the decoded command is StepRunsTheDecodedCommand.) -/
def Obligations.IgnoredBitsHaveNoEffect : Prop :=
  (∀ p : Packet, decodePacket (readBits p) = decodePacket p) ∧
  ∀ p q : Packet, readBits p = readBits q → decodePacket p = decodePacket q

/-- R82, R83: the match is on all 8 bits of OP; every other opcode is a skipped packet. -/
def Obligations.OpcodeSelectsTheCommand : Prop :=
  ∀ p : Packet,
    (p.w0.extractLsb' 0 8 = 0x01#8 → decodePacket p = .fill p.x1 p.y1 p.colour) ∧
    (p.w0.extractLsb' 0 8 = 0x02#8 →
      decodePacket p = .line p.x1 p.y1 p.x2 p.y2 p.width p.colour) ∧
    (p.w0.extractLsb' 0 8 = 0x03#8 → decodePacket p = .clear p.colour) ∧
    (p.w0.extractLsb' 0 8 ≠ 0x01#8 → p.w0.extractLsb' 0 8 ≠ 0x02#8 →
      p.w0.extractLsb' 0 8 ≠ 0x03#8 → decodePacket p = .skip (p.w0.extractLsb' 0 8)) ∧
    (decodePacket p).wellFormed = true

/-- R88: worked encodings of the spec, word for word. -/
def Obligations.WorkedEncodingsDecode : Prop :=
  decodePacket ⟨0x00000101#32, 0#32, 0#32, 0#32⟩ = .fill 0#16 0#16 (.rgb 0#8 0#8 0#8) ∧
  decodePacket ⟨0x00000001#32, 0x0000FFFF#32, 0#32, 0x0000000D#32⟩ =
    .fill 0xFFFF#16 0#16 (.index 13#8) ∧
  decodePacket ⟨0x00010002#32, 0x0001FFFD#32, 0x00010002#32, 0x00000002#32⟩ =
    .line 0xFFFD#16 1#16 2#16 1#16 1#8 (.index 2#8) ∧
  decodePacket ⟨0x00010102#32, 0#32, 0x00090009#32, 0x00FF0000#32⟩ =
    .line 0#16 0#16 9#16 9#16 1#8 (.rgb 0xFF#8 0#8 0#8) ∧
  decodePacket ⟨0x00000003#32, 0#32, 0#32, 0#32⟩ = .clear (.index 0#8) ∧
  decodePacket ⟨0x0000007F#32, 0#32, 0#32, 0#32⟩ = .skip 0x7F#8

/-- R78, R87, R88: operands in range assemble to a packet that decodes to the command with those
coordinates and that width; a coordinate, width or palette index out of range is an assembler error. -/
def Obligations.AssembledLineDecodes : Prop :=
  ∀ x1 y1 x2 y2 width n : Int,
    let ok := (-32768 ≤ x1 ∧ x1 ≤ 32767) ∧ (-32768 ≤ y1 ∧ y1 ≤ 32767) ∧
      (-32768 ≤ x2 ∧ x2 ≤ 32767) ∧ (-32768 ≤ y2 ∧ y2 ≤ 32767) ∧
      (0 ≤ width ∧ width ≤ 255) ∧ (0 ≤ n ∧ n ≤ 255)
    (ok → ∃ p a b c d w idx, assemble (.line x1 y1 x2 y2 width (.index n)) = some p ∧
      decodePacket p = .line a b c d w (.index idx) ∧ coordValue a = x1 ∧ coordValue b = y1 ∧
      coordValue c = x2 ∧ coordValue d = y2 ∧ (w.toNat : Int) = width ∧ (idx.toNat : Int) = n) ∧
    (¬ ok → assemble (.line x1 y1 x2 y2 width (.index n)) = none)

/-- R90: a fill record in range becomes the FILL packet of its fields, a line record in range the LINE
packet of its fields, any other type the packet of opcode 0xFF, and a record with an integer that does
not fit is refused. -/
def Obligations.WireRecordsTranslate : Prop :=
  (∀ x y color : Int, (-32768 ≤ x ∧ x ≤ 32767) → (-32768 ≤ y ∧ y ≤ 32767) →
    (0 ≤ color ∧ color ≤ 255) →
    ∃ p a b idx, wirePacket (.fill x y color) = some p ∧ decodePacket p = .fill a b (.index idx) ∧
      coordValue a = x ∧ coordValue b = y ∧ (idx.toNat : Int) = color) ∧
  (∀ x y color : Int, ¬ ((-32768 ≤ x ∧ x ≤ 32767) ∧ (-32768 ≤ y ∧ y ≤ 32767) ∧
    (0 ≤ color ∧ color ≤ 255)) → wirePacket (.fill x y color) = none) ∧
  (∀ x y x2 y2 color width : Int,
    let ok := (-32768 ≤ x ∧ x ≤ 32767) ∧ (-32768 ≤ y ∧ y ≤ 32767) ∧
      (-32768 ≤ x2 ∧ x2 ≤ 32767) ∧ (-32768 ≤ y2 ∧ y2 ≤ 32767) ∧
      (0 ≤ color ∧ color ≤ 255) ∧ (0 ≤ width ∧ width ≤ 255)
    (ok → ∃ p a b c d w idx, wirePacket (.line x y x2 y2 color width) = some p ∧
      decodePacket p = .line a b c d w (.index idx) ∧ coordValue a = x ∧ coordValue b = y ∧
      coordValue c = x2 ∧ coordValue d = y2 ∧ (w.toNat : Int) = width ∧
      (idx.toNat : Int) = color) ∧
    (¬ ok → wirePacket (.line x y x2 y2 color width) = none)) ∧
  wirePacket .other = some ⟨0x000000FF#32, 0#32, 0#32, 0#32⟩

/-! ### The engine's steps -/

/-- R99, R100: while BUSY = 1 the engine's turn runs exactly the command decoded from CUR, then the
bookkeeping of R104. The response is the model's bus output: no transaction was done (R70). -/
def Obligations.StepRunsTheDecodedCommand : Prop :=
  ∀ (s : State) (i : Instr) (rest : List Input), s.busy = true →
    decodePacket s.cur.packet = i → s.inputs = .engine :: rest →
    step s = match exec i { s with inputs := rest, bus := .notReady } with
      | .next t => .next { t with
          events := { t.events with done := true, idle := t.events.idle || t.queue.isEmpty }
          busy := false
          stk := [] }
      | .fault e => .fault e
      | .refused r => .refused r

/-- R97, R98: the enabled dispatch step takes the head packet, latches W and H, sets BUSY, empties STK,
and writes nothing else. (That `inputs` loses its head and the bus output is not ready are the model's
choices: logs 1 and 9.) -/
def Obligations.DispatchTakesTheHead : Prop :=
  ∀ (s : State) (p : Packet) (q : List Packet) (rest : List Input),
    s.run = true → s.busy = false → s.queue = p :: q → s.inputs = .engine :: rest →
    step s = .next { s with
      cur := ⟨p, s.cfgDim.extractLsb' 0 16, s.cfgDim.extractLsb' 16 16⟩
      queue := q
      busy := true
      stk := []
      inputs := rest
      bus := .notReady }

/-- R97, R105, R187: with BUSY = 0, and RUN = 0 or an empty queue, the engine's turn changes no state of
the block. -/
def Obligations.IdleEngineChangesNothing : Prop :=
  ∀ (s : State) (rest : List Input), s.busy = false → (s.run = false ∨ s.queue = []) →
    s.inputs = .engine :: rest → step s = .next { s with inputs := rest, bus := .notReady }

/-- R104: whatever the outcome of the command, the completion sets DONE, sets IDLE if Q is empty, clears
BUSY and empties STK. -/
def Obligations.CompletionBookkeeping : Prop :=
  ∀ (s t : State) (rest : List Input), s.busy = true → s.inputs = .engine :: rest →
    step s = .next t →
    t.events.done = true ∧ t.events.idle = (s.events.idle || s.queue.isEmpty) ∧
      t.busy = false ∧ t.stk = [] ∧ t.queue = s.queue

/-! ### The commands -/

/-- R161: SKIP sets STATUS.SKIP and adds 1 mod 2^32 to SKIPCNT; all else is unchanged, whatever the
geometry. -/
def Obligations.SkipSetsItsFlagAndCounts : Prop :=
  ∀ (op : Byte) (s : State), ∃ t, exec (.skip op) s = .next t ∧
    t = { s with events := { s.events with skip := true }, skipCnt := t.skipCnt } ∧
    t.skipCnt.toNat = (s.skipCnt.toNat + 1) % 2 ^ 32

/-- R160: a CLEAR that passes its checks paints every pixel of the buffer, A = 255 included; every other
byte of PIXMEM and every other field is unchanged. -/
def Obligations.ClearPaintsTheWholeBuffer : Prop :=
  ∀ (co : ColourOperand) (c : Colour) (s : State),
    configOk s.params s.cur.w.toNat s.cur.h.toNat = true → resolveColour co = some c →
    ∃ t, exec (.clear co) s = .next t ∧ t = { s with pixmem := t.pixmem } ∧
      (∀ u v, inBounds s.cur.w.toNat s.cur.h.toNat u v = true →
        PixelIs t.pixmem s.cur.w.toNat u v c) ∧
      (∀ a, 4 * (s.cur.w.toNat * s.cur.h.toNat) ≤ a →
        Memory.read t.pixmem a = Memory.read s.pixmem a)

/-- R141: a LINE that passes its checks paints exactly the in-bounds points of the traces of its chosen
stamp cells; every other byte of PIXMEM and every other field is unchanged. -/
def Obligations.LinePaintsItsStroke : Prop :=
  ∀ (x1 y1 x2 y2 : Coord) (width : Byte) (co : ColourOperand) (c : Colour) (s : State),
    configOk s.params s.cur.w.toNat s.cur.h.toNat = true → resolveColour co = some c →
    width ≠ 0#8 →
    let W := s.cur.w.toNat
    let H := s.cur.h.toNat
    let On := OnStroke (coordValue x1) (coordValue y1) (coordValue x2) (coordValue y2)
      (width.toNat / 2)
    ∃ t, exec (.line x1 y1 x2 y2 width co) s = .next t ∧ t = { s with pixmem := t.pixmem } ∧
      (∀ u v, inBounds W H u v = true → On u v → PixelIs t.pixmem W u v c) ∧
      (∀ a, (∀ u v, inBounds W H u v = true → On u v → ¬ ByteOf W u v a) →
        Memory.read t.pixmem a = Memory.read s.pixmem a)

/-- R115, steps 1 and 2: a FILL whose seed is out of bounds or has the fill colour already is a no-op:
CHANGED = 0, FILLCNT = 0, and nothing else. -/
def Obligations.FillWithoutEffect : Prop :=
  ∀ (x y : Coord) (co : ColourOperand) (c : Colour) (s : State),
    configOk s.params s.cur.w.toNat s.cur.h.toNat = true → resolveColour co = some c →
    (inBounds s.cur.w.toNat s.cur.h.toNat (coordValue x) (coordValue y) = false ∨
      rgbAt s.pixmem s.cur.w.toNat (coordValue x) (coordValue y) = c) →
    exec (.fill x y co) s = .next { s with changed := false, fillCnt := 0#32 }

/-- R115 to R118, R120: a FILL that passes its checks, with STK empty, is a no-op where R115 says so, and
otherwise repaints exactly the pixels of its component K, each to the fill colour with A = 255, with
CHANGED = 1 and FILLCNT = |K|; every other byte of PIXMEM and every other field is unchanged. -/
def Obligations.FillPaintsItsComponent : Prop :=
  ∀ (x y : Coord) (co : ColourOperand) (c : Colour) (s : State),
    s.params.Legal → s.stk = [] →
    configOk s.params s.cur.w.toNat s.cur.h.toNat = true → resolveColour co = some c →
    let W := s.cur.w.toNat
    let H := s.cur.h.toNat
    let X := coordValue x
    let Y := coordValue y
    let T := rgbAt s.pixmem W X Y
    if inBounds W H X Y = false ∨ T = c then
      exec (.fill x y co) s = .next { s with changed := false, fillCnt := 0#32 }
    else
      ∃ t, ∃ K : List (Int × Int), exec (.fill x y co) s = .next t ∧
        K.Nodup ∧ (∀ p : Int × Int, p ∈ K ↔ Component W H s.pixmem T X Y p.1 p.2) ∧
        1 ≤ K.length ∧ t.fillCnt.toNat = K.length ∧
        t = { s with pixmem := t.pixmem, changed := true, fillCnt := t.fillCnt } ∧
        (∀ p ∈ K, PixelIs t.pixmem W p.1 p.2 c) ∧
        (∀ a, (∀ p ∈ K, ¬ ByteOf W p.1 p.2 a) → Memory.read t.pixmem a = Memory.read s.pixmem a)

/-- R121, R122: with STK empty and room for MAX_PIXELS entries, no push finds STK full and the traversal
ends: a FILL answers a next state for every operand. -/
def Obligations.FillNeverStops : Prop :=
  ∀ (x y : Coord) (co : ColourOperand) (s : State),
    s.params.maxPixels ≤ s.params.stackDepth → s.stk = [] → ∃ t, exec (.fill x y co) s = .next t

/-- R124: the same FILL again, after one that passed its checks, is a no-op. -/
def Obligations.RepeatedFillIsNoOp : Prop :=
  ∀ (x y : Coord) (co : ColourOperand) (c : Colour) (s t : State),
    configOk s.params s.cur.w.toNat s.cur.h.toNat = true → resolveColour co = some c →
    exec (.fill x y co) s = .next t →
    exec (.fill x y co) t = .next { t with changed := false, fillCnt := 0#32 }

/-- R100, R172, R173: on an illegal geometry FILL, LINE and CLEAR are discarded with CONFIG, whatever
their operands; then a palette index of 26 or more is BAD_COLOR; then a LINE of width 0 is BAD_WIDTH.
A discard writes ERR and ERRCODE and nothing else (R171). -/
def Obligations.ChecksDiscardInOrder : Prop :=
  ∀ (i : Instr) (s : State),
    let discarded (code : ErrCode) : Result :=
      .next { s with events := { s.events with err := true }, errCode := code }
    let geometry := configOk s.params s.cur.w.toNat s.cur.h.toNat
    (geometry = false → (∀ op, i ≠ .skip op) → exec i s = discarded .config) ∧
    (geometry = true → ∀ idx : Byte, 26 ≤ idx.toNat →
      ((∃ x y, i = .fill x y (.index idx)) ∨
        (∃ x1 y1 x2 y2 w, i = .line x1 y1 x2 y2 w (.index idx)) ∨ i = .clear (.index idx)) →
      exec i s = discarded .badColor) ∧
    (geometry = true → ∀ x1 y1 x2 y2 co c, resolveColour co = some c →
      i = .line x1 y1 x2 y2 0#8 co → exec i s = discarded .badWidth)

/-- R15, R30, R34, R106: no command changes the parameters, CFG_DIM, RUN, BUSY, DONE, IDLE, OVF, IRQ_EN,
CMD0 to CMD3, Q, CUR, or what comes from outside; only a FILL changes CHANGED and FILLCNT; only a skip
changes SKIP and SKIPCNT; ERR and ERRCODE change together. -/
def Obligations.CommandsLeaveTheRestAlone : Prop :=
  ∀ (i : Instr) (s t : State), exec i s = .next t →
    t.params = s.params ∧ t.cfgDim = s.cfgDim ∧ t.run = s.run ∧ t.busy = s.busy ∧
    t.events.done = s.events.done ∧ t.events.idle = s.events.idle ∧ t.events.ovf = s.events.ovf ∧
    t.irqEn = s.irqEn ∧ t.cmd0 = s.cmd0 ∧ t.cmd1 = s.cmd1 ∧ t.cmd2 = s.cmd2 ∧ t.cmd3 = s.cmd3 ∧
    t.queue = s.queue ∧ t.cur = s.cur ∧ t.bus = s.bus ∧ t.inputs = s.inputs ∧
    ((∀ x y co, i ≠ .fill x y co) →
      t.changed = s.changed ∧ t.fillCnt = s.fillCnt ∧ t.stk = s.stk) ∧
    ((∀ op, i ≠ .skip op) → t.events.skip = s.events.skip ∧ t.skipCnt = s.skipCnt) ∧
    ((t.events.err = s.events.err ∧ t.errCode = s.errCode) ∨
      (t.events.err = true ∧ t.errCode ≠ .none ∧ t.pixmem = s.pixmem))

/-- R59, R60: no command changes a byte of PIXMEM from 4WH up, nor, of the lower ones, any whose pixel is
not left opaque: every byte it changes lies in an in-bounds pixel whose A is 255 after it. -/
def Obligations.CommandsStayInTheBuffer : Prop :=
  ∀ (i : Instr) (s t : State), exec i s = .next t → ∀ a,
    Memory.read t.pixmem a ≠ Memory.read s.pixmem a →
    a < 4 * (s.cur.w.toNat * s.cur.h.toNat) ∧
    ∃ u v, inBounds s.cur.w.toNat s.cur.h.toNat u v = true ∧ ByteOf s.cur.w.toNat u v a ∧
      alphaAt t.pixmem s.cur.w.toNat u v = 255#8

/-! ### The geometry of a LINE -/

/-- R139, R140: a trace begins at its first point, ends at its last, and has max(dx, dy) + 1 points. -/
def Obligations.TraceRunsEndToEnd : Prop :=
  ∀ xa ya xb yb : Int,
    (trace xa ya xb yb).head? = some (xa, ya) ∧ (trace xa ya xb yb).getLast? = some (xb, yb) ∧
    (trace xa ya xb yb).length = max (xb - xa).natAbs (yb - ya).natAbs + 1

/-- R140: the points of a trace are distinct, consecutive ones differ by at most 1 on each axis, and all
lie in the box of the endpoints. -/
def Obligations.TraceIsConnectedInItsBox : Prop :=
  ∀ xa ya xb yb : Int,
    (trace xa ya xb yb).Nodup ∧
    (∀ n p q, (trace xa ya xb yb)[n]? = some p → (trace xa ya xb yb)[n + 1]? = some q →
      (q.1 - p.1).natAbs ≤ 1 ∧ (q.2 - p.2).natAbs ≤ 1) ∧
    (∀ p ∈ trace xa ya xb yb, min xa xb ≤ p.1 ∧ p.1 ≤ max xa xb ∧
      min ya yb ≤ p.2 ∧ p.2 ≤ max ya yb)

/-- R140: a trace is translation-invariant. -/
def Obligations.TraceTranslates : Prop :=
  ∀ xa ya xb yb a b : Int,
    trace (xa + a) (ya + b) (xb + a) (yb + b) =
      (trace xa ya xb yb).map fun p => (p.1 + a, p.2 + b)

/-- R144: the early-out never removes a pixel that the loops would paint. -/
def Obligations.BoxEmptyRemovesNothing : Prop :=
  ∀ (w h : Nat) (x1 y1 x2 y2 : Int) (width : Byte),
    boxEmpty w h x1 y1 x2 y2 width.toNat = true →
    ∀ u v, OnStroke x1 y1 x2 y2 (width.toNat / 2) u v → inBounds w h u v = false

/-- R136: a stamp cell at `d2 = (i - r)^2 + (j - r)^2` is OUTSIDE exactly when `d2 > r^2`, INTERIOR
exactly when `r >= 3` and `d2 < (r - 2)^2`, and EDGE otherwise. (The spec itself PRESUMES the two
thresholds: log 17.) -/
def Obligations.StampClassThresholds : Prop :=
  ∀ (r i j : Nat),
    let d2 : Int := ((i : Int) - r) ^ 2 + ((j : Int) - r) ^ 2
    (cellClass r i j = .outside ↔ d2 > (r : Int) ^ 2) ∧
    (cellClass r i j = .interior ↔ 3 ≤ r ∧ d2 < ((r : Int) - 2) ^ 2) ∧
    (cellClass r i j = .edge ↔ d2 ≤ (r : Int) ^ 2 ∧ (3 ≤ r → ((r : Int) - 2) ^ 2 ≤ d2))

/-- R138: the stamp is symmetric in its two axes. -/
def Obligations.StampIsSymmetric : Prop :=
  ∀ r i j : Nat, cellClass r i j = cellClass r j i

/-- R145: a dot paints the disc `a^2 + b^2 <= r^2` with offsets from -r to r - 1, and, for r = 0, its
point. -/
def Obligations.DotIsTheClippedDisc : Prop :=
  ∀ (x y : Int) (r : Nat) (u v : Int),
    OnStroke x y x y r u v ↔
      if r = 0 then u = x ∧ v = y
      else -(r : Int) ≤ u - x ∧ u - x ≤ r - 1 ∧ -(r : Int) ≤ v - y ∧ v - y ≤ r - 1 ∧
        (u - x) ^ 2 + (v - y) ^ 2 ≤ (r : Int) ^ 2

/-- R146: a LINE of width 1 walks the plain trace of its endpoints. -/
def Obligations.WidthOneIsThePlainTrace : Prop :=
  ∀ x1 y1 x2 y2 u v : Int, OnStroke x1 y1 x2 y2 0 u v ↔ (u, v) ∈ trace x1 y1 x2 y2

/-- R146: widths 2k and 2k + 1, k >= 1, paint the same pixels: the two LINEs do the same. -/
def Obligations.OddWidthPaintsTheSame : Prop :=
  ∀ (x1 y1 x2 y2 : Coord) (even odd : Byte) (co : ColourOperand) (s t t' : State),
    even ≠ 0#8 → even.toNat % 2 = 0 → odd.toNat = even.toNat + 1 →
    exec (.line x1 y1 x2 y2 even co) s = .next t → exec (.line x1 y1 x2 y2 odd co) s = .next t' →
    t = t'

/-! ### The bus and the registers -/

/-- R51, R54, R55, R70: a transaction is a BusError exactly when it is not an aligned 32-bit access to the
register window nor a naturally aligned access of 1, 2 or 4 bytes to the aperture; it then changes
nothing but the response. -/
def Obligations.BusErrorExactlyOnIllegalAccess : Prop :=
  ∀ (t : Txn) (s : State),
    let a := t.addr.toNat
    let legal := (a < 0x100 ∧ t.size = 2#2 ∧ a % 4 = 0) ∨
      (0x1000000 ≤ a ∧ a < 0x1000000 + 4 * s.params.maxPixels ∧
        (t.size = 0#2 ∨ (t.size = 1#2 ∧ a % 2 = 0) ∨ (t.size = 2#2 ∧ a % 4 = 0)))
    (¬ legal → transact t s = { s with bus := if t.we then .writeError else .readError }) ∧
    (legal → (transact t s).bus.error = false ∧ (transact t s).bus.ready = true)

/-- R56, R208: while BUSY = 1 a legal access to the aperture or to CFG_DIM has no step: the engine's turn
is taken, bus_ready stays 0 and the transaction is still to come. Any other transaction is performed at
once. (That an illegal access is not held is the model's choice: log 5.) -/
def Obligations.HeldAccessWaits : Prop :=
  ∀ (t : Txn) (rest : List Input) (s : State), s.busy = true → s.inputs = .host t :: rest →
    (((∃ i n, accessTarget s.params t = .aperture i n) ∨
        accessTarget s.params t = .register .cfgDim) →
      step s = step { s with inputs := .engine :: s.inputs } ∧
      ∀ u, step s = .next u → u.inputs = s.inputs ∧ u.bus = .notReady ∧ u.busy = false) ∧
    ((∀ i n, accessTarget s.params t ≠ .aperture i n) →
        accessTarget s.params t ≠ .register .cfgDim →
      step s = .next (transact t { s with inputs := rest }))

/-- R56, R62, R208: in a state that keeps the invariant, one step, the completion a held transaction
waited for, ends its hold, and the transaction is then performed. (That the host moves next after that
completion, before any dispatch, is the model's schedule, for the transaction at the head of `inputs`:
DESIGN CHOICE, log 1. An interleaving in which the dispatch comes first is the list with `.engine`
elements before the transaction.) -/
def Obligations.HeldAccessIsPerformed : Prop :=
  ∀ (t : Txn) (rest : List Input) (s : State), Inv s → s.inputs = .host t :: rest →
    held t s = true →
    ∃ u v, step s = .next u ∧ held t u = false ∧ step u = .next v ∧
      v = transact t { u with inputs := rest }

/-- R61: a read has no side effect: only the response changes. -/
def Obligations.ReadsHaveNoSideEffect : Prop :=
  ∀ (t : Txn) (s : State), t.we = false → ∃ r, transact t s = { s with bus := r }

/-- R21, R22, R33, R35, R36: CFG_DIM and CMD0 to CMD3 store every bit written, CTRL bit 0, IRQ_EN bits 5
to 1, and read back so; SKIPCNT reads 0 after a write of any value. -/
def Obligations.WritableRegistersReadBack : Prop :=
  ∀ (v : Word) (s : State),
    let back (off : BitVec 25) : Response :=
      (transact (memReadTxn off 4) (transact (memWriteTxn off 4 v) s)).bus
    back 0x00C#25 = .readData v ∧ back 0x010#25 = .readData (v &&& 0x1#32) ∧
    back 0x018#25 = .readData (v &&& 0x3E#32) ∧ back 0x020#25 = .readData 0#32 ∧
    back 0x030#25 = .readData v ∧ back 0x034#25 = .readData v ∧
    back 0x038#25 = .readData v ∧ back 0x03C#25 = .readData v

/-- R17, R21, R22, R33, R35, R36: a write of v to CFG_DIM, CTRL, IRQ_EN, SKIPCNT or one of CMD0 to CMD3
changes the field it names and nothing else (but for the response). -/
def Obligations.RegisterWritesChangeOnlyTheirField : Prop :=
  ∀ (v : Word) (s : State),
    let after (off : BitVec 25) : State := transact (memWriteTxn off 4 v) s
    after 0x00C#25 = { s with cfgDim := v, bus := .written } ∧
    after 0x010#25 = { s with run := v.getLsbD 0, bus := .written } ∧
    after 0x018#25 = { s with
      irqEn := { done := v.getLsbD 1, err := v.getLsbD 2, skip := v.getLsbD 3,
                 idle := v.getLsbD 4, ovf := v.getLsbD 5 }
      bus := .written } ∧
    after 0x020#25 = { s with skipCnt := 0#32, bus := .written } ∧
    after 0x030#25 = { s with cmd0 := v, bus := .written } ∧
    after 0x034#25 = { s with cmd1 := v, bus := .written } ∧
    after 0x038#25 = { s with cmd2 := v, bus := .written } ∧
    after 0x03C#25 = { s with cmd3 := v, bus := .written }

/-- R17, R18, R19, R20, R34, R39: a write to a read-only register or to an offset of the window that the
table does not list changes nothing but the response; an unlisted offset and DOORBELL read 0. -/
def Obligations.ReadOnlyRegistersIgnoreWrites : Prop :=
  ∀ (off : BitVec 25) (v : Word) (s : State), off.toNat < 0x100 → off.toNat % 4 = 0 →
    ((off.toNat ≤ 0x008 ∨ off.toNat = 0x01C ∨ (0x024 ≤ off.toNat ∧ off.toNat ≤ 0x02C) ∨
        0x044 ≤ off.toNat) →
      transact (memWriteTxn off 4 v) s = { s with bus := .written }) ∧
    (((0x024 ≤ off.toNat ∧ off.toNat ≤ 0x02C) ∨ (0x040 ≤ off.toNat ∧ off.toNat ≤ 0x07C) ∨
        0x0E8 ≤ off.toNat) →
      transact (memReadTxn off 4) s = { s with bus := .readData 0#32 })

/-- R18, R19, R20, R38, R39: ID, CAPS, MAXPIX and the 26 palette registers read as the constants they are,
in every state with legal parameters. -/
def Obligations.ConstantRegistersRead : Prop :=
  ∀ s : State, s.params.Legal →
    (transact (memReadTxn 0x000#25 4) s).bus = .readData 0x53435242#32 ∧
    (∃ v, (transact (memReadTxn 0x004#25 4) s).bus = .readData v ∧
      v.toNat = s.params.maxDim + 2 ^ 16 * s.params.qdepth) ∧
    (∃ v, (transact (memReadTxn 0x008#25 4) s).bus = .readData v ∧ v.toNat = s.params.maxPixels) ∧
    (List.range 26).map (fun i =>
        (transact (memReadTxn (BitVec.ofNat 25 (0x080 + 4 * i)) 4) s).bus) =
      [.readData 0x00FFFFFF#32, .readData 0x00C1C1C1#32, .readData 0x00EF130B#32,
       .readData 0x00FF7100#32, .readData 0x00FFE400#32, .readData 0x0000CC00#32,
       .readData 0x0000B2FF#32, .readData 0x00231FD3#32, .readData 0x00A300BA#32,
       .readData 0x00D37CAA#32, .readData 0x00A0522D#32, .readData 0x00592F2A#32,
       .readData 0x00ECBCB4#32] ++
      [.readData 0x00000000#32, .readData 0x004C4C4C#32, .readData 0x00740B07#32,
       .readData 0x00C23800#32, .readData 0x00E8A200#32, .readData 0x00005510#32,
       .readData 0x0000569E#32, .readData 0x000E0865#32, .readData 0x00550069#32,
       .readData 0x00A75574#32, .readData 0x0063300D#32, .readData 0x00492F31#32,
       .readData 0x00D1A3A4#32]

/-- R23 to R31, R34, R35, R172: a read at 0x014 returns STATUS, whose layout this is, with the codes 0
NONE, 1 CONFIG, 2 BAD_COLOR and 3 BAD_WIDTH in ERRCODE; reads at 0x01C and 0x020 return FILLCNT and
SKIPCNT. -/
def Obligations.StatusWordLayout : Prop :=
  ∀ s : State,
    let w := statusWord s
    w.getLsbD 0 = s.busy ∧ w.getLsbD 1 = s.events.done ∧ w.getLsbD 2 = s.events.err ∧
    w.getLsbD 3 = s.events.skip ∧ w.getLsbD 4 = s.events.idle ∧ w.getLsbD 5 = s.events.ovf ∧
    w.getLsbD 6 = s.changed ∧ w.getLsbD 7 = false ∧
    w.extractLsb' 8 4 = s.errCode.bits ∧ w.extractLsb' 12 4 = 0#4 ∧
    (s.queue.length ≤ 255 → (w.extractLsb' 16 8).toNat = s.queue.length) ∧
    w.extractLsb' 24 8 = 0#8 ∧
    ErrCode.none.bits = 0#4 ∧ ErrCode.config.bits = 1#4 ∧ ErrCode.badColor.bits = 2#4 ∧
    ErrCode.badWidth.bits = 3#4 ∧
    transact (memReadTxn 0x014#25 4) s = { s with bus := .readData w } ∧
    transact (memReadTxn 0x01C#25 4) s = { s with bus := .readData s.fillCnt } ∧
    transact (memReadTxn 0x020#25 4) s = { s with bus := .readData s.skipCnt }

/-- R26, R32: a host write of v to STATUS clears the event bits that are 1 in v, clears ERRCODE with ERR,
and changes no other bit and no other field. -/
def Obligations.StatusWriteOneToClear : Prop :=
  ∀ (v : Word) (s : State),
    let t := transact (memWriteTxn 0x014#25 4 v) s
    statusWord t = statusWord s &&&
      ~~~((v &&& 0x3E#32) ||| (if v.getLsbD 2 then 0xF00#32 else 0#32)) ∧
    t = { s with events := t.events, errCode := t.errCode, bus := .written }

/-- R95, R96: a DOORBELL write of any value appends the staged packet, or, Q being full, sets OVF and
loses it; it changes nothing else, is never held and completes normally. -/
def Obligations.DoorbellPushesOrDrops : Prop :=
  ∀ (v : Word) (s : State),
    held (memWriteTxn 0x040#25 4 v) s = false ∧
    (s.queue.length < s.params.qdepth →
      transact (memWriteTxn 0x040#25 4 v) s =
        { s with queue := s.queue ++ [⟨s.cmd0, s.cmd1, s.cmd2, s.cmd3⟩], bus := .written }) ∧
    (s.queue.length = s.params.qdepth →
      transact (memWriteTxn 0x040#25 4 v) s =
        { s with events := { s.events with ovf := true }, bus := .written })

/-- R50, R53, R70: an aperture write of n bytes stores the low bytes of the value, little-endian, and no
other byte; a read of the same bytes then gives the value back. -/
def Obligations.ApertureWriteReadsBack : Prop :=
  ∀ (addr : BitVec 25) (n : Nat) (v : Word) (s : State), (n = 1 ∨ n = 2 ∨ n = 4) →
    0x1000000 ≤ addr.toNat → addr.toNat + n ≤ 0x1000000 + 4 * s.params.maxPixels →
    addr.toNat % n = 0 →
    let i := addr.toNat - 0x1000000
    let t := transact (memWriteTxn addr n v) s
    t = { s with pixmem := t.pixmem, bus := .written } ∧
    (∀ k < n, Memory.read t.pixmem (i + k) = v.extractLsb' (8 * k) 8) ∧
    (∀ a, (a < i ∨ i + n ≤ a) → Memory.read t.pixmem a = Memory.read s.pixmem a) ∧
    ∃ d, (transact (memReadTxn addr n) t).bus = .readData d ∧
      (memReadValue addr d).toNat = v.toNat % 2 ^ (8 * n)

/-- R51, R52, R53, R57, R205: once pixel (x, y) of a buffer of width w that fits PIXMEM is painted, the
host's read at block offset `0x1000000 + 4(yw + x)` returns the word `{255, B, G, R}`. -/
def Obligations.PaintedPixelReadsAsItsWord : Prop :=
  ∀ (s : State) (w h x y : Nat) (c : Colour), s.params.Legal → x < w → y < h →
    w * h ≤ s.params.maxPixels →
    ∃ d, (transact (memReadTxn (BitVec.ofNat 25 (0x1000000 + 4 * (y * w + x))) 4)
        { s with pixmem := pixWrite s.pixmem w x y c }).bus = .readData d ∧
      d.toNat = 0xFF000000 + c.b.toNat * 2 ^ 16 + c.g.toNat * 2 ^ 8 + c.r.toNat

/-- R177, R178: irq is 1 exactly when some event is pending in STATUS and enabled in IRQ_EN. -/
def Obligations.IrqIsEnabledAndPending : Prop :=
  ∀ s : State, irq s = true ↔ statusWord s &&& irqEnWord s ≠ 0#32

/-- R17, R41, R67: a host transaction leaves the parameters, CUR, STK, BUSY, CHANGED, FILLCNT and the
packets already in Q; a register access leaves PIXMEM; an aperture access leaves every register. -/
def Obligations.TransactionsLeaveTheEngineAlone : Prop :=
  ∀ (t : Txn) (s : State),
    let u := transact t s
    u.params = s.params ∧ u.cur = s.cur ∧ u.stk = s.stk ∧ u.busy = s.busy ∧
    u.changed = s.changed ∧ u.fillCnt = s.fillCnt ∧ u.inputs = s.inputs ∧
    (∃ more, u.queue = s.queue ++ more) ∧
    ((∀ i n, accessTarget s.params t ≠ .aperture i n) → u.pixmem = s.pixmem) ∧
    (∀ i n, accessTarget s.params t = .aperture i n →
      u = { s with pixmem := u.pixmem, bus := u.bus })

/-- R89, R204: WAIT ends with the STATUS read that finds BUSY = 0 and QCOUNT = 0; before it the engine
takes its enabled step. (That reads which find it busy are not steps of their own then is the model's
choice: log 16.) -/
def Obligations.WaitEndsWhenDrained : Prop :=
  ∀ (s : State) (rest : List Input), s.inputs = .wait :: rest →
    (s.busy = false ∧ s.queue = [] →
      step s = .next { s with inputs := rest, bus := .readData (statusWord s) }) ∧
    (s.busy = true ∨ (s.run = true ∧ s.queue ≠ []) →
      step s = step { s with inputs := .engine :: s.inputs }) ∧
    (s.busy = false ∧ s.run = false ∧ s.queue ≠ [] →
      step s = .next { s with bus := .readData (statusWord s) })

/-! ### Reset -/

/-- R196, R197, R199: what every register reads as right after reset, for all parameters, PIXMEM contents
and inputs; Q and STK are empty, the engine is idle and irq is 0. -/
def Obligations.ResetRegisterValues : Prop :=
  ∀ (p : Params) (m : Memory) (ins : List Input),
    let s := State.powerUp p m ins
    readReg s .id = 0x53435242#32 ∧ readReg s .caps = capsWord p ∧
    readReg s .maxpix = BitVec.ofNat 32 p.maxPixels ∧ readReg s .cfgDim = 0#32 ∧
    readReg s .ctrl = 0#32 ∧ readReg s .status = 0#32 ∧ readReg s .irqEn = 0#32 ∧
    readReg s .fillCnt = 0#32 ∧ readReg s .skipCnt = 0#32 ∧ readReg s .cmd0 = 0#32 ∧
    readReg s .cmd1 = 0#32 ∧ readReg s .cmd2 = 0#32 ∧ readReg s .cmd3 = 0#32 ∧
    readReg s .doorbell = 0#32 ∧ (∀ i, readReg s (.palette i) = paletteReg i) ∧
    s.queue = [] ∧ s.stk = [] ∧ s.busy = false ∧ irq s = false

/-- R195, R198: a reset brings every register and all hidden state to the values after reset; each byte
of PIXMEM keeps its value, but for a byte that an abandoned command was writing, which holds its old
value or the one the command would have written. (That CUR is zeros and the bus output not ready then is
the model's choice: logs 4 and 9.) -/
def Obligations.ResetKeepsPixmem : Prop :=
  ∀ (s : State) (written : List Nat) (rest : List Input), s.inputs = .reset written :: rest →
    ∃ t, step s = .next t ∧ t = State.powerUp s.params t.pixmem rest ∧
      (s.busy = false → t.pixmem = s.pixmem) ∧
      (s.busy = true → ∀ u, exec (decodePacket s.cur.packet) { s with inputs := rest } = .next u →
        ∀ a, Memory.read t.pixmem a =
          if a ∈ written then Memory.read u.pixmem a else Memory.read s.pixmem a)

/-! ### The whole machine -/

/-- R196, R197: the invariant holds right after reset, for legal parameters and any contents of PIXMEM
in canonical form inside its bytes; so it holds of `State.reset`, whose parameters and PIXMEM are the
model's choice (logs 2 and 3). -/
def Obligations.InvariantHoldsAtReset : Prop :=
  (∀ (p : Params) (m : Memory) (ins : List Input), p.Legal → Memory.wf m →
    (∀ c ∈ m, c.1 < 4 * p.maxPixels) →
    Inv (State.powerUp p m ins) ∧ CountInv (State.powerUp p m ins)) ∧
  Inv State.reset ∧ CountInv State.reset

/-- R26, R31, R40, R41, R42, R50: every step from a state that keeps the invariant keeps it. -/
def Obligations.EveryStepKeepsTheInvariant : Prop :=
  ∀ s t : State, Inv s → step s = .next t → Inv t

/-- R34, R118: every step keeps FILLCNT within MAX_PIXELS and CHANGED = 1 exactly when FILLCNT is not 0. -/
def Obligations.EveryStepKeepsTheFillCount : Prop :=
  ∀ s t : State, Inv s → CountInv s → step s = .next t → CountInv t

/-- R99, R121, R122, R179: no step from a state that keeps the invariant stops: every command completes,
and no error stops the engine. -/
def Obligations.NoStepStops : Prop :=
  ∀ s : State, Inv s → ∃ t, step s = .next t

/-- R99, R204, R208: with RUN = 1 and a silent host, the engine drains the queue in two steps for each
queued packet and one for the current command. -/
def Obligations.EngineDrainsTheQueue : Prop :=
  ∀ s : State, Inv s → s.run = true → s.inputs = [] →
    ∃ t : State, Host.Core.run Sys2Proof.core (stepsToDrain s) s = .next t ∧
      t.busy = false ∧ t.queue = [] ∧ t.cfgDim = s.cfgDim

/-- R162: two states with the same geometry, packets and buffer bytes 0 to 4WH - 1 reach, with a silent
host, the same buffer bytes after the same number of steps. SameReplay also asks for equal parameters,
RUN, BUSY, STK and CUR (even the stale CUR of an idle block); the states may differ in all else: the
event bits, ERRCODE, CHANGED, the counters, IRQ_EN, CMD0 to CMD3 and PIXMEM past the buffer. -/
def Obligations.ReplayIsDeterministic : Prop :=
  ∀ (n : Nat) (s t s' : State), Inv s → Inv t → s.inputs = [] → t.inputs = [] → SameReplay s t →
    Host.Core.run Sys2Proof.core n s = .next s' →
    ∃ t' : State, Host.Core.run Sys2Proof.core n t = .next t' ∧ SameReplay s' t'

/-- R162: a replay that begins with a legal CLEAR forgets what PIXMEM held: after that command the two
states replay alike. -/
def Obligations.ReplayFromClearForgetsPixmem : Prop :=
  ∀ (s t : State) (p : Packet) (q : List Packet) (co : ColourOperand) (c : Colour),
    Inv s → Inv t → s.inputs = [] → t.inputs = [] →
    s.params = t.params → s.cfgDim = t.cfgDim → s.run = true → t.run = true →
    s.busy = false → t.busy = false → s.queue = p :: q → t.queue = p :: q →
    decodePacket p = .clear co → resolveColour co = some c →
    configOk s.params (cfgW s).toNat (cfgH s).toNat = true →
    ∃ s' t' : State, Host.Core.run Sys2Proof.core 2 s = .next s' ∧
      Host.Core.run Sys2Proof.core 2 t = .next t' ∧ SameReplay s' t' ∧ s'.queue = q

/-- R25 to R29, R32: an event bit that is 1 stays 1 across every step but a reset and a host write to
STATUS. -/
def Obligations.EventBitsAreSticky : Prop :=
  ∀ s t : State, step s = .next t →
    (∀ written rest, s.inputs ≠ .reset written :: rest) →
    (∀ txn rest, s.inputs = .host txn :: rest →
      ¬ (txn.we = true ∧ accessTarget s.params txn = .register .status)) →
    (s.events.done = true → t.events.done = true) ∧ (s.events.err = true → t.events.err = true) ∧
    (s.events.skip = true → t.events.skip = true) ∧
    (s.events.idle = true → t.events.idle = true) ∧ (s.events.ovf = true → t.events.ovf = true)

/-- R7, R19, R20: no step changes the parameters, so CAPS and MAXPIX are constant. -/
def Obligations.ParametersNeverChange : Prop :=
  ∀ s t : State, step s = .next t →
    t.params = s.params ∧ readReg t .caps = readReg s .caps ∧ readReg t .maxpix = readReg s .maxpix

/-- R41, R44, R197: while BUSY = 0 the contents of CUR have no effect: two states that differ in CUR
alone go to states that differ in CUR at most, and, once a command is dispatched, not even there. -/
def Obligations.IdleLatchIsUnobservable : Prop :=
  ∀ (s t : State) (c : Current), s.busy = false → step s = .next t →
    ∃ d, step { s with cur := c } = .next { t with cur := d } ∧ (t.busy = true → d = t.cur)

/-- R63, R106: a command changes no later packet: along the engine's turns the queue only loses its
head, and a busy engine's turn leaves it as it is. -/
def Obligations.PacketsRunInPushOrder : Prop :=
  ∀ (s t : State) (rest : List Input), s.inputs = .engine :: rest → step s = .next t →
    (s.busy = true → t.queue = s.queue ∧ t.busy = false) ∧
    (s.busy = false → (t.queue = s.queue ∧ t.busy = false) ∨
      (s.queue = t.cur.packet :: t.queue ∧ t.busy = true))
end

