-- ==== Sys2Proof/Laws/Memory.lean ====
section
/-! SUPPORT. PIXMEM by bytes: what a read gives after a write, and that writes keep the canonical form. -/

namespace Sys2Proof.Machine

@[simp] theorem Memory.read_nil (a : Nat) : Memory.read [] a = unlistedByte a := rfl

theorem Memory.read_of_absent {m : Memory} {a : Nat} (h : ∀ c ∈ m, c.1 ≠ a) :
    Memory.read m a = unlistedByte a := by
  induction m with
  | nil => rfl
  | cons c rest ih =>
    obtain ⟨k, v⟩ := c
    have hk : k ≠ a := h (k, v) (by simp)
    simp [Memory.read, hk, ih fun c hc => h c (by simp [hc])]

theorem Memory.erase_absent (m : Memory) (a : Nat) : ∀ c ∈ Memory.erase m a, c.1 ≠ a := by
  intro c hc
  simpa [Memory.erase] using (List.mem_filter.mp hc).2

@[simp] theorem Memory.read_erase_same (m : Memory) (a : Nat) :
    Memory.read (Memory.erase m a) a = unlistedByte a :=
  Memory.read_of_absent (Memory.erase_absent m a)

theorem Memory.read_erase_other {a b : Nat} (m : Memory) (h : b ≠ a) :
    Memory.read (Memory.erase m a) b = Memory.read m b := by
  induction m with
  | nil => rfl
  | cons c rest ih =>
    obtain ⟨k, v⟩ := c
    by_cases hk : k = a
    · subst hk
      have : Memory.erase ((k, v) :: rest) k = Memory.erase rest k := by simp [Memory.erase]
      rw [this, ih]
      simp [Memory.read, Ne.symm h]
    · have : Memory.erase ((k, v) :: rest) a = (k, v) :: Memory.erase rest a := by
        simp [Memory.erase, hk]
      rw [this]
      simp [Memory.read, ih]

theorem Memory.read_insert_same {m : Memory} {a : Nat} (v : Byte) (h : ∀ c ∈ m, c.1 ≠ a) :
    Memory.read (Memory.insert m a v) a = v := by
  induction m with
  | nil => simp [Memory.insert, Memory.read]
  | cons c rest ih =>
    obtain ⟨k, x⟩ := c
    have hk : k ≠ a := h (k, x) (by simp)
    by_cases hl : a < k
    · simp [Memory.insert, hl, Memory.read]
    · simp [Memory.insert, hl, Memory.read, hk, ih fun c hc => h c (by simp [hc])]

theorem Memory.read_insert_other {a b : Nat} (m : Memory) (v : Byte) (h : b ≠ a) :
    Memory.read (Memory.insert m a v) b = Memory.read m b := by
  induction m with
  | nil => simp [Memory.insert, Memory.read, Ne.symm h]
  | cons c rest ih =>
    obtain ⟨k, x⟩ := c
    by_cases hl : a < k
    · simp [Memory.insert, hl, Memory.read, Ne.symm h]
    · simp [Memory.insert, hl, Memory.read, ih]

/-- A read after a write to the same byte gives the value written, in any memory. -/
@[simp] theorem Memory.read_write_same (m : Memory) (a : Nat) (v : Byte) :
    Memory.read (Memory.write m a v) a = v := by
  unfold Memory.write
  split
  · simp_all
  · exact Memory.read_insert_same v (Memory.erase_absent m a)

/-- A write leaves every other byte alone, in any memory. -/
theorem Memory.read_write_other {a b : Nat} (m : Memory) (v : Byte) (h : b ≠ a) :
    Memory.read (Memory.write m a v) b = Memory.read m b := by
  unfold Memory.write
  split
  · exact Memory.read_erase_other m h
  · rw [Memory.read_insert_other _ _ h, Memory.read_erase_other m h]

/-- What a byte reads as after one write, all cases at once. -/
theorem Memory.read_write (m : Memory) (a b : Nat) (v : Byte) :
    Memory.read (Memory.write m a v) b = if b = a then v else Memory.read m b := by
  by_cases h : b = a
  · simp [h]
  · simp [h, Memory.read_write_other m v h]

theorem Memory.mem_insert {m : Memory} {a : Nat} {v : Byte} {c : Host.Cell} :
    c ∈ Memory.insert m a v ↔ c = (a, v) ∨ c ∈ m := by
  induction m with
  | nil => simp [Memory.insert]
  | cons d rest ih =>
    obtain ⟨k, x⟩ := d
    by_cases hl : a < k
    · simp [Memory.insert, hl]
    · simp only [Memory.insert, hl, if_false, List.mem_cons, ih]
      tauto

theorem Memory.pairwise_insert {m : Memory} {a : Nat} {v : Byte}
    (hm : m.Pairwise fun c d => c.1 < d.1) (h : ∀ c ∈ m, c.1 ≠ a) :
    (Memory.insert m a v).Pairwise fun c d => c.1 < d.1 := by
  induction m with
  | nil => simp [Memory.insert]
  | cons d rest ih =>
    obtain ⟨k, x⟩ := d
    have hk : k ≠ a := h (k, x) (by simp)
    obtain ⟨hhead, htail⟩ := List.pairwise_cons.mp hm
    by_cases hl : a < k
    · simp only [Memory.insert, hl, if_true]
      refine List.pairwise_cons.mpr ⟨fun c hc => ?_, hm⟩
      rcases List.mem_cons.mp hc with rfl | hc
      · exact hl
      · exact lt_trans hl (hhead c hc)
    · simp only [Memory.insert, hl, if_false]
      refine List.pairwise_cons.mpr
        ⟨fun c hc => ?_, ih htail fun c hc => h c (List.mem_cons_of_mem _ hc)⟩
      rcases Memory.mem_insert.mp hc with rfl | hc
      · simp only; omega
      · exact hhead c hc

/-- A write keeps the canonical form. -/
theorem Memory.wf_write {m : Memory} (hm : Memory.wf m) (a : Nat) (v : Byte) :
    Memory.wf (Memory.write m a v) := by
  have he : Memory.wf (Memory.erase m a) :=
    ⟨hm.1.filter _, fun c hc => hm.2 c (List.mem_filter.mp hc).1⟩
  unfold Memory.write
  split
  · exact he
  · rename_i hv
    refine ⟨Memory.pairwise_insert he.1 (Memory.erase_absent m a), fun c hc => ?_⟩
    rcases Memory.mem_insert.mp hc with rfl | hc
    · exact hv
    · exact he.2 c hc

/-- A write inside the first `n` bytes keeps every entry there. -/
theorem Memory.inside_write {m : Memory} {n a : Nat} (hm : ∀ c ∈ m, c.1 < n) (ha : a < n) (v : Byte) :
    ∀ c ∈ Memory.write m a v, c.1 < n := by
  intro c hc
  have he : ∀ c ∈ Memory.erase m a, c.1 < n := fun c hc => hm c (List.mem_filter.mp hc).1
  unfold Memory.write at hc
  split at hc
  · exact he c hc
  · rcases Memory.mem_insert.mp hc with rfl | hc
    · exact ha
    · exact he c hc

/-- A byte that no entry lists reads as the unlisted value. -/
theorem Memory.read_outside {m : Memory} {n a : Nat} (hm : ∀ c ∈ m, c.1 < n) (ha : n ≤ a) :
    Memory.read m a = unlistedByte a :=
  Memory.read_of_absent fun c hc => by have := hm c hc; omega

theorem Memory.read_head_of_wf {k : Nat} {v : Byte} {rest : Memory} (h : Memory.wf ((k, v) :: rest)) :
    Memory.read ((k, v) :: rest) k ≠ unlistedByte k := by
  simpa [Memory.read] using h.2 (k, v) (by simp)

theorem Memory.wf_tail {c : Host.Cell} {rest : Memory} (h : Memory.wf (c :: rest)) :
    Memory.wf rest :=
  ⟨(List.pairwise_cons.mp h.1).2, fun d hd => h.2 d (List.mem_cons_of_mem _ hd)⟩

theorem Memory.read_below_head {k a : Nat} {v : Byte} {rest : Memory}
    (h : Memory.wf ((k, v) :: rest)) (ha : a < k) :
    Memory.read ((k, v) :: rest) a = unlistedByte a := by
  refine Memory.read_of_absent fun c hc => ?_
  rcases List.mem_cons.mp hc with rfl | hc
  · simp only; omega
  · have := (List.pairwise_cons.mp h.1).1 c hc
    simp only at this; omega

/-- Two memories in canonical form that read alike are equal. -/
theorem Memory.ext_of_wf {m n : Memory} (hm : Memory.wf m) (hn : Memory.wf n)
    (h : ∀ a, Memory.read m a = Memory.read n a) : m = n := by
  induction m generalizing n with
  | nil =>
    cases n with
    | nil => rfl
    | cons d rest =>
      obtain ⟨k, v⟩ := d
      exact absurd (by simpa using (h k).symm) (Memory.read_head_of_wf hn)
  | cons c rest ih =>
    obtain ⟨k, v⟩ := c
    cases n with
    | nil => exact absurd (by simpa using h k) (Memory.read_head_of_wf hm)
    | cons d rest' =>
      obtain ⟨k', v'⟩ := d
      have hkk : k = k' := by
        rcases Nat.lt_trichotomy k k' with hlt | heq | hgt
        · exact absurd ((h k).trans (Memory.read_below_head hn hlt)) (Memory.read_head_of_wf hm)
        · exact heq
        · exact absurd ((h k').symm.trans (Memory.read_below_head hm hgt))
            (Memory.read_head_of_wf hn)
      subst hkk
      have hv : v = v' := by simpa [Memory.read] using h k
      subst hv
      congr 1
      refine ih (Memory.wf_tail hm) (Memory.wf_tail hn) fun a => ?_
      by_cases hak : k = a
      · subst hak
        have h1 : ∀ c ∈ rest, c.1 ≠ k := fun c hc => by
          have := (List.pairwise_cons.mp hm.1).1 c hc
          simp only at this; omega
        have h2 : ∀ c ∈ rest', c.1 ≠ k := fun c hc => by
          have := (List.pairwise_cons.mp hn.1).1 c hc
          simp only at this; omega
        rw [Memory.read_of_absent h1, Memory.read_of_absent h2]
      · simpa [Memory.read, hak] using h a

end Sys2Proof.Machine
end

