-- ==== Sys2Proof/Laws/Pixels.lean ====
section
/-! SUPPORT. PIXMEM by pixels: what `pixWrite` and `paintClipped` do, once for all (20_memory.md R52, R57,
R59). -/

namespace Sys2Proof.Machine

theorem inBounds_iff {w h : Nat} {x y : Int} :
    inBounds w h x y = true ↔ 0 ≤ x ∧ x < w ∧ 0 ≤ y ∧ y < h := by
  simp [inBounds, and_assoc]

/-- A pixel in bounds lies in the first `4WH` bytes. -/
theorem pixelIndex_bound {w h : Nat} {x y : Int} (hb : inBounds w h x y = true) :
    pixelIndex w x y + 3 < 4 * (w * h) := by
  obtain ⟨h0, hw, h1, hh⟩ := inBounds_iff.mp hb
  have hx : x.toNat < w := by omega
  have hy : y.toNat + 1 ≤ h := by omega
  have hm : (y.toNat + 1) * w ≤ h * w := Nat.mul_le_mul_right w hy
  have : y.toNat * w + w ≤ w * h := by
    calc y.toNat * w + w = (y.toNat + 1) * w := by ring
      _ ≤ h * w := hm
      _ = w * h := Nat.mul_comm h w
  unfold pixelIndex
  omega

theorem ByteOf.lt {w h : Nat} {u v : Int} {a : Nat} (hb : inBounds w h u v = true)
    (ha : ByteOf w u v a) : a < 4 * (w * h) := by
  obtain ⟨k, hk, rfl⟩ := ha
  have := pixelIndex_bound hb
  omega

/-- Two pixels in bounds share no byte. -/
theorem ByteOf.unique {w h : Nat} {u v u' v' : Int} {a : Nat} (hb : inBounds w h u v = true)
    (hb' : inBounds w h u' v' = true) (ha : ByteOf w u v a) (ha' : ByteOf w u' v' a) :
    u = u' ∧ v = v' := by
  obtain ⟨h0, hw, h1, hh⟩ := inBounds_iff.mp hb
  obtain ⟨h0', hw', h1', hh'⟩ := inBounds_iff.mp hb'
  obtain ⟨k, hk, rfl⟩ := ha
  obtain ⟨l, hl, he⟩ := ha'
  unfold pixelIndex at he
  have e : v.toNat * w + u.toNat = v'.toNat * w + u'.toNat := by omega
  have hu : u.toNat < w := by omega
  have hu' : u'.toNat < w := by omega
  have hwpos : 0 < w := by omega
  have em : u.toNat = u'.toNat := by
    have := congrArg (· % w) e
    simpa [Nat.add_mod, Nat.mod_eq_of_lt hu, Nat.mod_eq_of_lt hu'] using this
  have ed : v.toNat = v'.toNat := by
    rw [em] at e
    exact Nat.eq_of_mul_eq_mul_right hwpos (by omega)
  omega

/-- What every byte reads as after `PixWrite`. -/
theorem read_pixWrite (m : Memory) (w : Nat) (x y : Int) (c : Colour) (a : Nat) :
    Memory.read (pixWrite m w x y c) a =
      if a = pixelIndex w x y + 3 then 255#8
      else if a = pixelIndex w x y + 2 then c.b
      else if a = pixelIndex w x y + 1 then c.g
      else if a = pixelIndex w x y then c.r
      else Memory.read m a := by
  simp [pixWrite, Memory.read_write]

theorem read_pixWrite_other {m : Memory} {w : Nat} {x y : Int} {c : Colour} {a : Nat}
    (h : ¬ ByteOf w x y a) : Memory.read (pixWrite m w x y c) a = Memory.read m a := by
  rw [read_pixWrite]
  have : ∀ k < 4, a ≠ pixelIndex w x y + k := fun k hk he => h ⟨k, hk, he⟩
  have h0 := this 0 (by omega)
  have h1 := this 1 (by omega)
  have h2 := this 2 (by omega)
  have h3 := this 3 (by omega)
  simp_all

theorem pixelIs_pixWrite (m : Memory) (w : Nat) (x y : Int) (c : Colour) :
    PixelIs (pixWrite m w x y c) w x y c := by
  constructor
  · simp [rgbAt, read_pixWrite]
  · simp [alphaAt, read_pixWrite]

/-- A pixel depends on its own four bytes only. -/
theorem rgbAt_congr {m n : Memory} {w : Nat} {u v : Int}
    (h : ∀ a, ByteOf w u v a → Memory.read m a = Memory.read n a) :
    rgbAt m w u v = rgbAt n w u v ∧ alphaAt m w u v = alphaAt n w u v := by
  have hk : ∀ k < 4, Memory.read m (pixelIndex w u v + k) = Memory.read n (pixelIndex w u v + k) :=
    fun k hk => h _ ⟨k, hk, rfl⟩
  have h0 := hk 0 (by omega)
  have h1 := hk 1 (by omega)
  have h2 := hk 2 (by omega)
  have h3 := hk 3 (by omega)
  simp only [Nat.add_zero] at h0
  exact ⟨by simp [rgbAt, h0, h1, h2], by simp [alphaAt, h3]⟩

/-- `PixWrite` leaves every other pixel of the buffer as it was. -/
theorem pixel_pixWrite_other {m : Memory} {w h : Nat} {x y u v : Int} {c : Colour}
    (hb : inBounds w h x y = true) (hb' : inBounds w h u v = true) (hne : ¬ (u = x ∧ v = y)) :
    rgbAt (pixWrite m w x y c) w u v = rgbAt m w u v ∧
      alphaAt (pixWrite m w x y c) w u v = alphaAt m w u v :=
  rgbAt_congr fun _ ha => read_pixWrite_other fun ha' => hne (ByteOf.unique hb' hb ha ha')

theorem wf_pixWrite {m : Memory} (hm : Memory.wf m) (w : Nat) (x y : Int) (c : Colour) :
    Memory.wf (pixWrite m w x y c) :=
  Memory.wf_write (Memory.wf_write (Memory.wf_write (Memory.wf_write hm _ _) _ _) _ _) _ _

theorem inside_pixWrite {m : Memory} {w h n : Nat} {x y : Int} (hm : ∀ c ∈ m, c.1 < n)
    (hb : inBounds w h x y = true) (hn : 4 * (w * h) ≤ n) (c : Colour) :
    ∀ d ∈ pixWrite m w x y c, d.1 < n := by
  have := pixelIndex_bound hb
  unfold pixWrite
  refine Memory.inside_write (Memory.inside_write (Memory.inside_write (Memory.inside_write hm ?_ _) ?_ _)
    ?_ _) ?_ _ <;> omega

/-! ### `paintClipped` -/

/-- A byte of no pixel of the list that is in bounds is left alone (R59). -/
theorem read_paintClipped_other {w h : Nat} {c : Colour} {l : List (Int × Int)} {m : Memory} {a : Nat}
    (ha : ∀ p ∈ l, inBounds w h p.1 p.2 = true → ¬ ByteOf w p.1 p.2 a) :
    Memory.read (paintClipped w h c l m) a = Memory.read m a := by
  induction l generalizing m with
  | nil => rfl
  | cons p rest ih =>
    obtain ⟨u, v⟩ := p
    rw [paintClipped, ih fun p hp => ha p (List.mem_cons_of_mem _ hp)]
    split
    · rename_i hb
      exact read_pixWrite_other (ha (u, v) (by simp) hb)
    · rfl

theorem pixelIs_paintClipped_of_pixelIs {w h : Nat} {c : Colour} {l : List (Int × Int)} {m : Memory}
    {u v : Int} (hb : inBounds w h u v = true) (hp : PixelIs m w u v c) :
    PixelIs (paintClipped w h c l m) w u v c := by
  induction l generalizing m with
  | nil => exact hp
  | cons p rest ih =>
    obtain ⟨x, y⟩ := p
    rw [paintClipped]
    refine ih ?_
    split
    · rename_i hb'
      by_cases he : u = x ∧ v = y
      · obtain ⟨rfl, rfl⟩ := he
        exact pixelIs_pixWrite m w u v c
      · have := pixel_pixWrite_other (m := m) (c := c) hb' hb he
        exact ⟨this.1.trans hp.1, this.2.trans hp.2⟩
    · exact hp

/-- Every pixel of the list that is in bounds is painted. -/
theorem pixelIs_paintClipped {w h : Nat} {c : Colour} {l : List (Int × Int)} {m : Memory} {u v : Int}
    (hb : inBounds w h u v = true) (hp : (u, v) ∈ l) : PixelIs (paintClipped w h c l m) w u v c := by
  induction l generalizing m with
  | nil => simp at hp
  | cons p rest ih =>
    obtain ⟨x, y⟩ := p
    rw [paintClipped]
    rcases List.mem_cons.mp hp with he | hp
    · obtain ⟨rfl, rfl⟩ := Prod.mk.inj he
      refine pixelIs_paintClipped_of_pixelIs hb ?_
      simpa [hb] using pixelIs_pixWrite m w u v c
    · exact ih hp

theorem wf_paintClipped {m : Memory} (hm : Memory.wf m) (w h : Nat) (c : Colour)
    (l : List (Int × Int)) : Memory.wf (paintClipped w h c l m) := by
  induction l generalizing m with
  | nil => exact hm
  | cons p rest ih =>
    obtain ⟨x, y⟩ := p
    rw [paintClipped]
    refine ih ?_
    split
    · exact wf_pixWrite hm _ _ _ _
    · exact hm

theorem inside_paintClipped {m : Memory} {w h n : Nat} (hm : ∀ c ∈ m, c.1 < n)
    (hn : 4 * (w * h) ≤ n) (c : Colour) (l : List (Int × Int)) :
    ∀ d ∈ paintClipped w h c l m, d.1 < n := by
  induction l generalizing m with
  | nil => exact hm
  | cons p rest ih =>
    obtain ⟨x, y⟩ := p
    rw [paintClipped]
    refine ih ?_
    split
    · rename_i hb
      exact inside_pixWrite hm hb hn c
    · exact hm

end Sys2Proof.Machine
end

