-- ==== Sys2Proof/Laws/State.lean ====
section
/-! SUPPORT. One lemma per field of State for each update of the model, true by rfl, so that no later proof
unfolds a record update. -/

namespace Sys2Proof.Machine

/-! ### `recordError` -/

@[simp] theorem recordError_params (code : ErrCode) (s : State) :
    (recordError code s).params = s.params := rfl
@[simp] theorem recordError_cfgDim (code : ErrCode) (s : State) :
    (recordError code s).cfgDim = s.cfgDim := rfl
@[simp] theorem recordError_run (code : ErrCode) (s : State) :
    (recordError code s).run = s.run := rfl
@[simp] theorem recordError_busy (code : ErrCode) (s : State) :
    (recordError code s).busy = s.busy := rfl
@[simp] theorem recordError_events (code : ErrCode) (s : State) :
    (recordError code s).events = { s.events with err := true } := rfl
@[simp] theorem recordError_changed (code : ErrCode) (s : State) :
    (recordError code s).changed = s.changed := rfl
@[simp] theorem recordError_errCode (code : ErrCode) (s : State) :
    (recordError code s).errCode = code := rfl
@[simp] theorem recordError_irqEn (code : ErrCode) (s : State) :
    (recordError code s).irqEn = s.irqEn := rfl
@[simp] theorem recordError_fillCnt (code : ErrCode) (s : State) :
    (recordError code s).fillCnt = s.fillCnt := rfl
@[simp] theorem recordError_skipCnt (code : ErrCode) (s : State) :
    (recordError code s).skipCnt = s.skipCnt := rfl
@[simp] theorem recordError_cmd0 (code : ErrCode) (s : State) :
    (recordError code s).cmd0 = s.cmd0 := rfl
@[simp] theorem recordError_cmd1 (code : ErrCode) (s : State) :
    (recordError code s).cmd1 = s.cmd1 := rfl
@[simp] theorem recordError_cmd2 (code : ErrCode) (s : State) :
    (recordError code s).cmd2 = s.cmd2 := rfl
@[simp] theorem recordError_cmd3 (code : ErrCode) (s : State) :
    (recordError code s).cmd3 = s.cmd3 := rfl
@[simp] theorem recordError_queue (code : ErrCode) (s : State) :
    (recordError code s).queue = s.queue := rfl
@[simp] theorem recordError_cur (code : ErrCode) (s : State) :
    (recordError code s).cur = s.cur := rfl
@[simp] theorem recordError_stk (code : ErrCode) (s : State) :
    (recordError code s).stk = s.stk := rfl
@[simp] theorem recordError_pixmem (code : ErrCode) (s : State) :
    (recordError code s).pixmem = s.pixmem := rfl
@[simp] theorem recordError_bus (code : ErrCode) (s : State) :
    (recordError code s).bus = s.bus := rfl
@[simp] theorem recordError_inputs (code : ErrCode) (s : State) :
    (recordError code s).inputs = s.inputs := rfl

/-! ### `setFillResult` -/

@[simp] theorem setFillResult_params (n : Nat) (s : State) :
    (setFillResult n s).params = s.params := rfl
@[simp] theorem setFillResult_cfgDim (n : Nat) (s : State) :
    (setFillResult n s).cfgDim = s.cfgDim := rfl
@[simp] theorem setFillResult_run (n : Nat) (s : State) :
    (setFillResult n s).run = s.run := rfl
@[simp] theorem setFillResult_busy (n : Nat) (s : State) :
    (setFillResult n s).busy = s.busy := rfl
@[simp] theorem setFillResult_events (n : Nat) (s : State) :
    (setFillResult n s).events = s.events := rfl
@[simp] theorem setFillResult_changed (n : Nat) (s : State) :
    (setFillResult n s).changed = decide (1 ≤ n) := rfl
@[simp] theorem setFillResult_errCode (n : Nat) (s : State) :
    (setFillResult n s).errCode = s.errCode := rfl
@[simp] theorem setFillResult_irqEn (n : Nat) (s : State) :
    (setFillResult n s).irqEn = s.irqEn := rfl
@[simp] theorem setFillResult_fillCnt (n : Nat) (s : State) :
    (setFillResult n s).fillCnt = BitVec.ofNat 32 n := rfl
@[simp] theorem setFillResult_skipCnt (n : Nat) (s : State) :
    (setFillResult n s).skipCnt = s.skipCnt := rfl
@[simp] theorem setFillResult_cmd0 (n : Nat) (s : State) :
    (setFillResult n s).cmd0 = s.cmd0 := rfl
@[simp] theorem setFillResult_cmd1 (n : Nat) (s : State) :
    (setFillResult n s).cmd1 = s.cmd1 := rfl
@[simp] theorem setFillResult_cmd2 (n : Nat) (s : State) :
    (setFillResult n s).cmd2 = s.cmd2 := rfl
@[simp] theorem setFillResult_cmd3 (n : Nat) (s : State) :
    (setFillResult n s).cmd3 = s.cmd3 := rfl
@[simp] theorem setFillResult_queue (n : Nat) (s : State) :
    (setFillResult n s).queue = s.queue := rfl
@[simp] theorem setFillResult_cur (n : Nat) (s : State) :
    (setFillResult n s).cur = s.cur := rfl
@[simp] theorem setFillResult_stk (n : Nat) (s : State) :
    (setFillResult n s).stk = s.stk := rfl
@[simp] theorem setFillResult_pixmem (n : Nat) (s : State) :
    (setFillResult n s).pixmem = s.pixmem := rfl
@[simp] theorem setFillResult_bus (n : Nat) (s : State) :
    (setFillResult n s).bus = s.bus := rfl
@[simp] theorem setFillResult_inputs (n : Nat) (s : State) :
    (setFillResult n s).inputs = s.inputs := rfl

/-! ### `countSkip` -/

@[simp] theorem countSkip_params (s : State) :
    (countSkip s).params = s.params := rfl
@[simp] theorem countSkip_cfgDim (s : State) :
    (countSkip s).cfgDim = s.cfgDim := rfl
@[simp] theorem countSkip_run (s : State) :
    (countSkip s).run = s.run := rfl
@[simp] theorem countSkip_busy (s : State) :
    (countSkip s).busy = s.busy := rfl
@[simp] theorem countSkip_events (s : State) :
    (countSkip s).events = { s.events with skip := true } := rfl
@[simp] theorem countSkip_changed (s : State) :
    (countSkip s).changed = s.changed := rfl
@[simp] theorem countSkip_errCode (s : State) :
    (countSkip s).errCode = s.errCode := rfl
@[simp] theorem countSkip_irqEn (s : State) :
    (countSkip s).irqEn = s.irqEn := rfl
@[simp] theorem countSkip_fillCnt (s : State) :
    (countSkip s).fillCnt = s.fillCnt := rfl
@[simp] theorem countSkip_skipCnt (s : State) :
    (countSkip s).skipCnt = s.skipCnt + 1#32 := rfl
@[simp] theorem countSkip_cmd0 (s : State) :
    (countSkip s).cmd0 = s.cmd0 := rfl
@[simp] theorem countSkip_cmd1 (s : State) :
    (countSkip s).cmd1 = s.cmd1 := rfl
@[simp] theorem countSkip_cmd2 (s : State) :
    (countSkip s).cmd2 = s.cmd2 := rfl
@[simp] theorem countSkip_cmd3 (s : State) :
    (countSkip s).cmd3 = s.cmd3 := rfl
@[simp] theorem countSkip_queue (s : State) :
    (countSkip s).queue = s.queue := rfl
@[simp] theorem countSkip_cur (s : State) :
    (countSkip s).cur = s.cur := rfl
@[simp] theorem countSkip_stk (s : State) :
    (countSkip s).stk = s.stk := rfl
@[simp] theorem countSkip_pixmem (s : State) :
    (countSkip s).pixmem = s.pixmem := rfl
@[simp] theorem countSkip_bus (s : State) :
    (countSkip s).bus = s.bus := rfl
@[simp] theorem countSkip_inputs (s : State) :
    (countSkip s).inputs = s.inputs := rfl

/-! ### `finishCommand` -/

@[simp] theorem finishCommand_params (s : State) :
    (finishCommand s).params = s.params := rfl
@[simp] theorem finishCommand_cfgDim (s : State) :
    (finishCommand s).cfgDim = s.cfgDim := rfl
@[simp] theorem finishCommand_run (s : State) :
    (finishCommand s).run = s.run := rfl
@[simp] theorem finishCommand_busy (s : State) :
    (finishCommand s).busy = false := rfl
@[simp] theorem finishCommand_events (s : State) :
    (finishCommand s).events = { s.events with done := true, idle := s.events.idle || s.queue.isEmpty } := rfl
@[simp] theorem finishCommand_changed (s : State) :
    (finishCommand s).changed = s.changed := rfl
@[simp] theorem finishCommand_errCode (s : State) :
    (finishCommand s).errCode = s.errCode := rfl
@[simp] theorem finishCommand_irqEn (s : State) :
    (finishCommand s).irqEn = s.irqEn := rfl
@[simp] theorem finishCommand_fillCnt (s : State) :
    (finishCommand s).fillCnt = s.fillCnt := rfl
@[simp] theorem finishCommand_skipCnt (s : State) :
    (finishCommand s).skipCnt = s.skipCnt := rfl
@[simp] theorem finishCommand_cmd0 (s : State) :
    (finishCommand s).cmd0 = s.cmd0 := rfl
@[simp] theorem finishCommand_cmd1 (s : State) :
    (finishCommand s).cmd1 = s.cmd1 := rfl
@[simp] theorem finishCommand_cmd2 (s : State) :
    (finishCommand s).cmd2 = s.cmd2 := rfl
@[simp] theorem finishCommand_cmd3 (s : State) :
    (finishCommand s).cmd3 = s.cmd3 := rfl
@[simp] theorem finishCommand_queue (s : State) :
    (finishCommand s).queue = s.queue := rfl
@[simp] theorem finishCommand_cur (s : State) :
    (finishCommand s).cur = s.cur := rfl
@[simp] theorem finishCommand_stk (s : State) :
    (finishCommand s).stk = [] := rfl
@[simp] theorem finishCommand_pixmem (s : State) :
    (finishCommand s).pixmem = s.pixmem := rfl
@[simp] theorem finishCommand_bus (s : State) :
    (finishCommand s).bus = s.bus := rfl
@[simp] theorem finishCommand_inputs (s : State) :
    (finishCommand s).inputs = s.inputs := rfl

/-! ### `writeStatus` -/

@[simp] theorem writeStatus_params (v : Word) (s : State) :
    (writeStatus v s).params = s.params := rfl
@[simp] theorem writeStatus_cfgDim (v : Word) (s : State) :
    (writeStatus v s).cfgDim = s.cfgDim := rfl
@[simp] theorem writeStatus_run (v : Word) (s : State) :
    (writeStatus v s).run = s.run := rfl
@[simp] theorem writeStatus_busy (v : Word) (s : State) :
    (writeStatus v s).busy = s.busy := rfl
@[simp] theorem writeStatus_events (v : Word) (s : State) :
    (writeStatus v s).events = s.events.clearedBy v := rfl
@[simp] theorem writeStatus_changed (v : Word) (s : State) :
    (writeStatus v s).changed = s.changed := rfl
@[simp] theorem writeStatus_errCode (v : Word) (s : State) :
    (writeStatus v s).errCode = if v.getLsbD 2 then .none else s.errCode := rfl
@[simp] theorem writeStatus_irqEn (v : Word) (s : State) :
    (writeStatus v s).irqEn = s.irqEn := rfl
@[simp] theorem writeStatus_fillCnt (v : Word) (s : State) :
    (writeStatus v s).fillCnt = s.fillCnt := rfl
@[simp] theorem writeStatus_skipCnt (v : Word) (s : State) :
    (writeStatus v s).skipCnt = s.skipCnt := rfl
@[simp] theorem writeStatus_cmd0 (v : Word) (s : State) :
    (writeStatus v s).cmd0 = s.cmd0 := rfl
@[simp] theorem writeStatus_cmd1 (v : Word) (s : State) :
    (writeStatus v s).cmd1 = s.cmd1 := rfl
@[simp] theorem writeStatus_cmd2 (v : Word) (s : State) :
    (writeStatus v s).cmd2 = s.cmd2 := rfl
@[simp] theorem writeStatus_cmd3 (v : Word) (s : State) :
    (writeStatus v s).cmd3 = s.cmd3 := rfl
@[simp] theorem writeStatus_queue (v : Word) (s : State) :
    (writeStatus v s).queue = s.queue := rfl
@[simp] theorem writeStatus_cur (v : Word) (s : State) :
    (writeStatus v s).cur = s.cur := rfl
@[simp] theorem writeStatus_stk (v : Word) (s : State) :
    (writeStatus v s).stk = s.stk := rfl
@[simp] theorem writeStatus_pixmem (v : Word) (s : State) :
    (writeStatus v s).pixmem = s.pixmem := rfl
@[simp] theorem writeStatus_bus (v : Word) (s : State) :
    (writeStatus v s).bus = s.bus := rfl
@[simp] theorem writeStatus_inputs (v : Word) (s : State) :
    (writeStatus v s).inputs = s.inputs := rfl

/-! ### `latch` -/

@[simp] theorem latch_params (p : Packet) (s : State) :
    (latch p s).params = s.params := rfl
@[simp] theorem latch_cfgDim (p : Packet) (s : State) :
    (latch p s).cfgDim = s.cfgDim := rfl
@[simp] theorem latch_run (p : Packet) (s : State) :
    (latch p s).run = s.run := rfl
@[simp] theorem latch_busy (p : Packet) (s : State) :
    (latch p s).busy = true := rfl
@[simp] theorem latch_events (p : Packet) (s : State) :
    (latch p s).events = s.events := rfl
@[simp] theorem latch_changed (p : Packet) (s : State) :
    (latch p s).changed = s.changed := rfl
@[simp] theorem latch_errCode (p : Packet) (s : State) :
    (latch p s).errCode = s.errCode := rfl
@[simp] theorem latch_irqEn (p : Packet) (s : State) :
    (latch p s).irqEn = s.irqEn := rfl
@[simp] theorem latch_fillCnt (p : Packet) (s : State) :
    (latch p s).fillCnt = s.fillCnt := rfl
@[simp] theorem latch_skipCnt (p : Packet) (s : State) :
    (latch p s).skipCnt = s.skipCnt := rfl
@[simp] theorem latch_cmd0 (p : Packet) (s : State) :
    (latch p s).cmd0 = s.cmd0 := rfl
@[simp] theorem latch_cmd1 (p : Packet) (s : State) :
    (latch p s).cmd1 = s.cmd1 := rfl
@[simp] theorem latch_cmd2 (p : Packet) (s : State) :
    (latch p s).cmd2 = s.cmd2 := rfl
@[simp] theorem latch_cmd3 (p : Packet) (s : State) :
    (latch p s).cmd3 = s.cmd3 := rfl
@[simp] theorem latch_queue (p : Packet) (s : State) :
    (latch p s).queue = s.queue := rfl
@[simp] theorem latch_cur (p : Packet) (s : State) :
    (latch p s).cur = ⟨p, cfgW s, cfgH s⟩ := rfl
@[simp] theorem latch_stk (p : Packet) (s : State) :
    (latch p s).stk = [] := rfl
@[simp] theorem latch_pixmem (p : Packet) (s : State) :
    (latch p s).pixmem = s.pixmem := rfl
@[simp] theorem latch_bus (p : Packet) (s : State) :
    (latch p s).bus = s.bus := rfl
@[simp] theorem latch_inputs (p : Packet) (s : State) :
    (latch p s).inputs = s.inputs := rfl

/-! ### `placeCommand` -/

@[simp] theorem placeCommand_params (p : Packet) (s : State) :
    (placeCommand p s).params = s.params := rfl
@[simp] theorem placeCommand_cfgDim (p : Packet) (s : State) :
    (placeCommand p s).cfgDim = s.cfgDim := rfl
@[simp] theorem placeCommand_run (p : Packet) (s : State) :
    (placeCommand p s).run = s.run := rfl
@[simp] theorem placeCommand_busy (p : Packet) (s : State) :
    (placeCommand p s).busy = true := rfl
@[simp] theorem placeCommand_events (p : Packet) (s : State) :
    (placeCommand p s).events = s.events := rfl
@[simp] theorem placeCommand_changed (p : Packet) (s : State) :
    (placeCommand p s).changed = s.changed := rfl
@[simp] theorem placeCommand_errCode (p : Packet) (s : State) :
    (placeCommand p s).errCode = s.errCode := rfl
@[simp] theorem placeCommand_irqEn (p : Packet) (s : State) :
    (placeCommand p s).irqEn = s.irqEn := rfl
@[simp] theorem placeCommand_fillCnt (p : Packet) (s : State) :
    (placeCommand p s).fillCnt = s.fillCnt := rfl
@[simp] theorem placeCommand_skipCnt (p : Packet) (s : State) :
    (placeCommand p s).skipCnt = s.skipCnt := rfl
@[simp] theorem placeCommand_cmd0 (p : Packet) (s : State) :
    (placeCommand p s).cmd0 = s.cmd0 := rfl
@[simp] theorem placeCommand_cmd1 (p : Packet) (s : State) :
    (placeCommand p s).cmd1 = s.cmd1 := rfl
@[simp] theorem placeCommand_cmd2 (p : Packet) (s : State) :
    (placeCommand p s).cmd2 = s.cmd2 := rfl
@[simp] theorem placeCommand_cmd3 (p : Packet) (s : State) :
    (placeCommand p s).cmd3 = s.cmd3 := rfl
@[simp] theorem placeCommand_queue (p : Packet) (s : State) :
    (placeCommand p s).queue = s.queue := rfl
@[simp] theorem placeCommand_cur (p : Packet) (s : State) :
    (placeCommand p s).cur = ⟨p, cfgW s, cfgH s⟩ := rfl
@[simp] theorem placeCommand_stk (p : Packet) (s : State) :
    (placeCommand p s).stk = [] := rfl
@[simp] theorem placeCommand_pixmem (p : Packet) (s : State) :
    (placeCommand p s).pixmem = s.pixmem := rfl
@[simp] theorem placeCommand_bus (p : Packet) (s : State) :
    (placeCommand p s).bus = s.bus := rfl
@[simp] theorem placeCommand_inputs (p : Packet) (s : State) :
    (placeCommand p s).inputs = .engine :: s.inputs := rfl

/-! ### `pollStatus` -/

@[simp] theorem pollStatus_params (s : State) :
    (pollStatus s).params = s.params := rfl
@[simp] theorem pollStatus_cfgDim (s : State) :
    (pollStatus s).cfgDim = s.cfgDim := rfl
@[simp] theorem pollStatus_run (s : State) :
    (pollStatus s).run = s.run := rfl
@[simp] theorem pollStatus_busy (s : State) :
    (pollStatus s).busy = s.busy := rfl
@[simp] theorem pollStatus_events (s : State) :
    (pollStatus s).events = s.events := rfl
@[simp] theorem pollStatus_changed (s : State) :
    (pollStatus s).changed = s.changed := rfl
@[simp] theorem pollStatus_errCode (s : State) :
    (pollStatus s).errCode = s.errCode := rfl
@[simp] theorem pollStatus_irqEn (s : State) :
    (pollStatus s).irqEn = s.irqEn := rfl
@[simp] theorem pollStatus_fillCnt (s : State) :
    (pollStatus s).fillCnt = s.fillCnt := rfl
@[simp] theorem pollStatus_skipCnt (s : State) :
    (pollStatus s).skipCnt = s.skipCnt := rfl
@[simp] theorem pollStatus_cmd0 (s : State) :
    (pollStatus s).cmd0 = s.cmd0 := rfl
@[simp] theorem pollStatus_cmd1 (s : State) :
    (pollStatus s).cmd1 = s.cmd1 := rfl
@[simp] theorem pollStatus_cmd2 (s : State) :
    (pollStatus s).cmd2 = s.cmd2 := rfl
@[simp] theorem pollStatus_cmd3 (s : State) :
    (pollStatus s).cmd3 = s.cmd3 := rfl
@[simp] theorem pollStatus_queue (s : State) :
    (pollStatus s).queue = s.queue := rfl
@[simp] theorem pollStatus_cur (s : State) :
    (pollStatus s).cur = s.cur := rfl
@[simp] theorem pollStatus_stk (s : State) :
    (pollStatus s).stk = s.stk := rfl
@[simp] theorem pollStatus_pixmem (s : State) :
    (pollStatus s).pixmem = s.pixmem := rfl
@[simp] theorem pollStatus_bus (s : State) :
    (pollStatus s).bus = .readData (statusWord s) := rfl
@[simp] theorem pollStatus_inputs (s : State) :
    (pollStatus s).inputs = s.inputs := rfl

/-! ### `clearTo` -/

@[simp] theorem clearTo_params (c : Colour) (s : State) :
    (clearTo c s).params = s.params := rfl
@[simp] theorem clearTo_cfgDim (c : Colour) (s : State) :
    (clearTo c s).cfgDim = s.cfgDim := rfl
@[simp] theorem clearTo_run (c : Colour) (s : State) :
    (clearTo c s).run = s.run := rfl
@[simp] theorem clearTo_busy (c : Colour) (s : State) :
    (clearTo c s).busy = s.busy := rfl
@[simp] theorem clearTo_events (c : Colour) (s : State) :
    (clearTo c s).events = s.events := rfl
@[simp] theorem clearTo_changed (c : Colour) (s : State) :
    (clearTo c s).changed = s.changed := rfl
@[simp] theorem clearTo_errCode (c : Colour) (s : State) :
    (clearTo c s).errCode = s.errCode := rfl
@[simp] theorem clearTo_irqEn (c : Colour) (s : State) :
    (clearTo c s).irqEn = s.irqEn := rfl
@[simp] theorem clearTo_fillCnt (c : Colour) (s : State) :
    (clearTo c s).fillCnt = s.fillCnt := rfl
@[simp] theorem clearTo_skipCnt (c : Colour) (s : State) :
    (clearTo c s).skipCnt = s.skipCnt := rfl
@[simp] theorem clearTo_cmd0 (c : Colour) (s : State) :
    (clearTo c s).cmd0 = s.cmd0 := rfl
@[simp] theorem clearTo_cmd1 (c : Colour) (s : State) :
    (clearTo c s).cmd1 = s.cmd1 := rfl
@[simp] theorem clearTo_cmd2 (c : Colour) (s : State) :
    (clearTo c s).cmd2 = s.cmd2 := rfl
@[simp] theorem clearTo_cmd3 (c : Colour) (s : State) :
    (clearTo c s).cmd3 = s.cmd3 := rfl
@[simp] theorem clearTo_queue (c : Colour) (s : State) :
    (clearTo c s).queue = s.queue := rfl
@[simp] theorem clearTo_cur (c : Colour) (s : State) :
    (clearTo c s).cur = s.cur := rfl
@[simp] theorem clearTo_stk (c : Colour) (s : State) :
    (clearTo c s).stk = s.stk := rfl
@[simp] theorem clearTo_pixmem (c : Colour) (s : State) :
    (clearTo c s).pixmem = paintClipped s.cur.w.toNat s.cur.h.toNat c
      (bufferPixels s.cur.w.toNat s.cur.h.toNat) s.pixmem := rfl
@[simp] theorem clearTo_bus (c : Colour) (s : State) :
    (clearTo c s).bus = s.bus := rfl
@[simp] theorem clearTo_inputs (c : Colour) (s : State) :
    (clearTo c s).inputs = s.inputs := rfl

/-! ### `powerUp` -/

@[simp] theorem powerUp_params (p : Params) (m : Memory) (ins : List Input) :
    (State.powerUp p m ins).params = p := rfl
@[simp] theorem powerUp_cfgDim (p : Params) (m : Memory) (ins : List Input) :
    (State.powerUp p m ins).cfgDim = 0#32 := rfl
@[simp] theorem powerUp_run (p : Params) (m : Memory) (ins : List Input) :
    (State.powerUp p m ins).run = false := rfl
@[simp] theorem powerUp_busy (p : Params) (m : Memory) (ins : List Input) :
    (State.powerUp p m ins).busy = false := rfl
@[simp] theorem powerUp_events (p : Params) (m : Memory) (ins : List Input) :
    (State.powerUp p m ins).events = Events.none := rfl
@[simp] theorem powerUp_changed (p : Params) (m : Memory) (ins : List Input) :
    (State.powerUp p m ins).changed = false := rfl
@[simp] theorem powerUp_errCode (p : Params) (m : Memory) (ins : List Input) :
    (State.powerUp p m ins).errCode = .none := rfl
@[simp] theorem powerUp_irqEn (p : Params) (m : Memory) (ins : List Input) :
    (State.powerUp p m ins).irqEn = Events.none := rfl
@[simp] theorem powerUp_fillCnt (p : Params) (m : Memory) (ins : List Input) :
    (State.powerUp p m ins).fillCnt = 0#32 := rfl
@[simp] theorem powerUp_skipCnt (p : Params) (m : Memory) (ins : List Input) :
    (State.powerUp p m ins).skipCnt = 0#32 := rfl
@[simp] theorem powerUp_cmd0 (p : Params) (m : Memory) (ins : List Input) :
    (State.powerUp p m ins).cmd0 = 0#32 := rfl
@[simp] theorem powerUp_cmd1 (p : Params) (m : Memory) (ins : List Input) :
    (State.powerUp p m ins).cmd1 = 0#32 := rfl
@[simp] theorem powerUp_cmd2 (p : Params) (m : Memory) (ins : List Input) :
    (State.powerUp p m ins).cmd2 = 0#32 := rfl
@[simp] theorem powerUp_cmd3 (p : Params) (m : Memory) (ins : List Input) :
    (State.powerUp p m ins).cmd3 = 0#32 := rfl
@[simp] theorem powerUp_queue (p : Params) (m : Memory) (ins : List Input) :
    (State.powerUp p m ins).queue = [] := rfl
@[simp] theorem powerUp_cur (p : Params) (m : Memory) (ins : List Input) :
    (State.powerUp p m ins).cur = Current.afterReset := rfl
@[simp] theorem powerUp_stk (p : Params) (m : Memory) (ins : List Input) :
    (State.powerUp p m ins).stk = [] := rfl
@[simp] theorem powerUp_pixmem (p : Params) (m : Memory) (ins : List Input) :
    (State.powerUp p m ins).pixmem = m := rfl
@[simp] theorem powerUp_bus (p : Params) (m : Memory) (ins : List Input) :
    (State.powerUp p m ins).bus = .notReady := rfl
@[simp] theorem powerUp_inputs (p : Params) (m : Memory) (ins : List Input) :
    (State.powerUp p m ins).inputs = ins := rfl

/-! ### Updates by cases -/

@[simp] theorem pushStaged_params (s : State) : (pushStaged s).params = s.params := by
  unfold pushStaged; split <;> rfl
@[simp] theorem pushStaged_cfgDim (s : State) : (pushStaged s).cfgDim = s.cfgDim := by
  unfold pushStaged; split <;> rfl
@[simp] theorem pushStaged_run (s : State) : (pushStaged s).run = s.run := by
  unfold pushStaged; split <;> rfl
@[simp] theorem pushStaged_busy (s : State) : (pushStaged s).busy = s.busy := by
  unfold pushStaged; split <;> rfl
@[simp] theorem pushStaged_changed (s : State) : (pushStaged s).changed = s.changed := by
  unfold pushStaged; split <;> rfl
@[simp] theorem pushStaged_errCode (s : State) : (pushStaged s).errCode = s.errCode := by
  unfold pushStaged; split <;> rfl
@[simp] theorem pushStaged_irqEn (s : State) : (pushStaged s).irqEn = s.irqEn := by
  unfold pushStaged; split <;> rfl
@[simp] theorem pushStaged_fillCnt (s : State) : (pushStaged s).fillCnt = s.fillCnt := by
  unfold pushStaged; split <;> rfl
@[simp] theorem pushStaged_skipCnt (s : State) : (pushStaged s).skipCnt = s.skipCnt := by
  unfold pushStaged; split <;> rfl
@[simp] theorem pushStaged_cmd0 (s : State) : (pushStaged s).cmd0 = s.cmd0 := by
  unfold pushStaged; split <;> rfl
@[simp] theorem pushStaged_cmd1 (s : State) : (pushStaged s).cmd1 = s.cmd1 := by
  unfold pushStaged; split <;> rfl
@[simp] theorem pushStaged_cmd2 (s : State) : (pushStaged s).cmd2 = s.cmd2 := by
  unfold pushStaged; split <;> rfl
@[simp] theorem pushStaged_cmd3 (s : State) : (pushStaged s).cmd3 = s.cmd3 := by
  unfold pushStaged; split <;> rfl
@[simp] theorem pushStaged_cur (s : State) : (pushStaged s).cur = s.cur := by
  unfold pushStaged; split <;> rfl
@[simp] theorem pushStaged_stk (s : State) : (pushStaged s).stk = s.stk := by
  unfold pushStaged; split <;> rfl
@[simp] theorem pushStaged_pixmem (s : State) : (pushStaged s).pixmem = s.pixmem := by
  unfold pushStaged; split <;> rfl
@[simp] theorem pushStaged_bus (s : State) : (pushStaged s).bus = s.bus := by
  unfold pushStaged; split <;> rfl
@[simp] theorem pushStaged_inputs (s : State) : (pushStaged s).inputs = s.inputs := by
  unfold pushStaged; split <;> rfl
@[simp] theorem dispatchHead_params (s : State) : (dispatchHead s).params = s.params := by
  unfold dispatchHead; split <;> rfl
@[simp] theorem dispatchHead_cfgDim (s : State) : (dispatchHead s).cfgDim = s.cfgDim := by
  unfold dispatchHead; split <;> rfl
@[simp] theorem dispatchHead_run (s : State) : (dispatchHead s).run = s.run := by
  unfold dispatchHead; split <;> rfl
@[simp] theorem dispatchHead_events (s : State) : (dispatchHead s).events = s.events := by
  unfold dispatchHead; split <;> rfl
@[simp] theorem dispatchHead_changed (s : State) : (dispatchHead s).changed = s.changed := by
  unfold dispatchHead; split <;> rfl
@[simp] theorem dispatchHead_errCode (s : State) : (dispatchHead s).errCode = s.errCode := by
  unfold dispatchHead; split <;> rfl
@[simp] theorem dispatchHead_irqEn (s : State) : (dispatchHead s).irqEn = s.irqEn := by
  unfold dispatchHead; split <;> rfl
@[simp] theorem dispatchHead_fillCnt (s : State) : (dispatchHead s).fillCnt = s.fillCnt := by
  unfold dispatchHead; split <;> rfl
@[simp] theorem dispatchHead_skipCnt (s : State) : (dispatchHead s).skipCnt = s.skipCnt := by
  unfold dispatchHead; split <;> rfl
@[simp] theorem dispatchHead_cmd0 (s : State) : (dispatchHead s).cmd0 = s.cmd0 := by
  unfold dispatchHead; split <;> rfl
@[simp] theorem dispatchHead_cmd1 (s : State) : (dispatchHead s).cmd1 = s.cmd1 := by
  unfold dispatchHead; split <;> rfl
@[simp] theorem dispatchHead_cmd2 (s : State) : (dispatchHead s).cmd2 = s.cmd2 := by
  unfold dispatchHead; split <;> rfl
@[simp] theorem dispatchHead_cmd3 (s : State) : (dispatchHead s).cmd3 = s.cmd3 := by
  unfold dispatchHead; split <;> rfl
@[simp] theorem dispatchHead_pixmem (s : State) : (dispatchHead s).pixmem = s.pixmem := by
  unfold dispatchHead; split <;> rfl
@[simp] theorem dispatchHead_bus (s : State) : (dispatchHead s).bus = s.bus := by
  unfold dispatchHead; split <;> rfl
@[simp] theorem dispatchHead_inputs (s : State) : (dispatchHead s).inputs = s.inputs := by
  unfold dispatchHead; split <;> rfl
@[simp] theorem lineBetween_params (x1 y1 x2 y2 : Int) (c : Colour) (width : Byte) (s : State) :
    (lineBetween x1 y1 x2 y2 c width s).params = s.params := by
  unfold lineBetween; split <;> rfl
@[simp] theorem lineBetween_cfgDim (x1 y1 x2 y2 : Int) (c : Colour) (width : Byte) (s : State) :
    (lineBetween x1 y1 x2 y2 c width s).cfgDim = s.cfgDim := by
  unfold lineBetween; split <;> rfl
@[simp] theorem lineBetween_run (x1 y1 x2 y2 : Int) (c : Colour) (width : Byte) (s : State) :
    (lineBetween x1 y1 x2 y2 c width s).run = s.run := by
  unfold lineBetween; split <;> rfl
@[simp] theorem lineBetween_busy (x1 y1 x2 y2 : Int) (c : Colour) (width : Byte) (s : State) :
    (lineBetween x1 y1 x2 y2 c width s).busy = s.busy := by
  unfold lineBetween; split <;> rfl
@[simp] theorem lineBetween_events (x1 y1 x2 y2 : Int) (c : Colour) (width : Byte) (s : State) :
    (lineBetween x1 y1 x2 y2 c width s).events = s.events := by
  unfold lineBetween; split <;> rfl
@[simp] theorem lineBetween_changed (x1 y1 x2 y2 : Int) (c : Colour) (width : Byte) (s : State) :
    (lineBetween x1 y1 x2 y2 c width s).changed = s.changed := by
  unfold lineBetween; split <;> rfl
@[simp] theorem lineBetween_errCode (x1 y1 x2 y2 : Int) (c : Colour) (width : Byte) (s : State) :
    (lineBetween x1 y1 x2 y2 c width s).errCode = s.errCode := by
  unfold lineBetween; split <;> rfl
@[simp] theorem lineBetween_irqEn (x1 y1 x2 y2 : Int) (c : Colour) (width : Byte) (s : State) :
    (lineBetween x1 y1 x2 y2 c width s).irqEn = s.irqEn := by
  unfold lineBetween; split <;> rfl
@[simp] theorem lineBetween_fillCnt (x1 y1 x2 y2 : Int) (c : Colour) (width : Byte) (s : State) :
    (lineBetween x1 y1 x2 y2 c width s).fillCnt = s.fillCnt := by
  unfold lineBetween; split <;> rfl
@[simp] theorem lineBetween_skipCnt (x1 y1 x2 y2 : Int) (c : Colour) (width : Byte) (s : State) :
    (lineBetween x1 y1 x2 y2 c width s).skipCnt = s.skipCnt := by
  unfold lineBetween; split <;> rfl
@[simp] theorem lineBetween_cmd0 (x1 y1 x2 y2 : Int) (c : Colour) (width : Byte) (s : State) :
    (lineBetween x1 y1 x2 y2 c width s).cmd0 = s.cmd0 := by
  unfold lineBetween; split <;> rfl
@[simp] theorem lineBetween_cmd1 (x1 y1 x2 y2 : Int) (c : Colour) (width : Byte) (s : State) :
    (lineBetween x1 y1 x2 y2 c width s).cmd1 = s.cmd1 := by
  unfold lineBetween; split <;> rfl
@[simp] theorem lineBetween_cmd2 (x1 y1 x2 y2 : Int) (c : Colour) (width : Byte) (s : State) :
    (lineBetween x1 y1 x2 y2 c width s).cmd2 = s.cmd2 := by
  unfold lineBetween; split <;> rfl
@[simp] theorem lineBetween_cmd3 (x1 y1 x2 y2 : Int) (c : Colour) (width : Byte) (s : State) :
    (lineBetween x1 y1 x2 y2 c width s).cmd3 = s.cmd3 := by
  unfold lineBetween; split <;> rfl
@[simp] theorem lineBetween_queue (x1 y1 x2 y2 : Int) (c : Colour) (width : Byte) (s : State) :
    (lineBetween x1 y1 x2 y2 c width s).queue = s.queue := by
  unfold lineBetween; split <;> rfl
@[simp] theorem lineBetween_cur (x1 y1 x2 y2 : Int) (c : Colour) (width : Byte) (s : State) :
    (lineBetween x1 y1 x2 y2 c width s).cur = s.cur := by
  unfold lineBetween; split <;> rfl
@[simp] theorem lineBetween_stk (x1 y1 x2 y2 : Int) (c : Colour) (width : Byte) (s : State) :
    (lineBetween x1 y1 x2 y2 c width s).stk = s.stk := by
  unfold lineBetween; split <;> rfl
@[simp] theorem lineBetween_bus (x1 y1 x2 y2 : Int) (c : Colour) (width : Byte) (s : State) :
    (lineBetween x1 y1 x2 y2 c width s).bus = s.bus := by
  unfold lineBetween; split <;> rfl
@[simp] theorem lineBetween_inputs (x1 y1 x2 y2 : Int) (c : Colour) (width : Byte) (s : State) :
    (lineBetween x1 y1 x2 y2 c width s).inputs = s.inputs := by
  unfold lineBetween; split <;> rfl

end Sys2Proof.Machine
end

