-- ==== Sys2Proof/Laws/Ops.lean ====
section
/-! SUPPORT. What the shared checks and the queue operation can do, once for all. -/

namespace Sys2Proof.Machine

theorem configOk_iff {p : Params} {w h : Nat} :
    configOk p w h = true ↔
      1 ≤ w ∧ w ≤ p.maxDim ∧ 1 ≤ h ∧ h ≤ p.maxDim ∧ w * h ≤ p.maxPixels := by
  simp [configOk, and_assoc]

/-- Everything `withChecks` can answer (40_dispatch.md R100). -/
theorem withChecks_cases (co : ColourOperand) (s : State) (draw : Colour → Result) :
    (configOk s.params s.cur.w.toNat s.cur.h.toNat = false ∧
      withChecks co s draw = .next (recordError .config s)) ∨
    (configOk s.params s.cur.w.toNat s.cur.h.toNat = true ∧ resolveColour co = none ∧
      withChecks co s draw = .next (recordError .badColor s)) ∨
    (∃ c, configOk s.params s.cur.w.toNat s.cur.h.toNat = true ∧ resolveColour co = some c ∧
      withChecks co s draw = draw c) := by
  unfold withChecks
  cases hc : configOk s.params s.cur.w.toNat s.cur.h.toNat
  · simp
  · cases hr : resolveColour co
    · simp
    · simp

theorem withChecks_draws {co : ColourOperand} {s : State} {draw : Colour → Result} {c : Colour}
    (hc : configOk s.params s.cur.w.toNat s.cur.h.toNat = true) (hr : resolveColour co = some c) :
    withChecks co s draw = draw c := by
  simp [withChecks, hc, hr]

/-- Everything a DOORBELL write can do (40_dispatch.md R95, R96). -/
theorem pushStaged_cases (s : State) :
    (s.queue.length < s.params.qdepth ∧
      pushStaged s = { s with queue := s.queue ++ [stagedPacket s] }) ∨
    (s.params.qdepth ≤ s.queue.length ∧
      pushStaged s = { s with events := { s.events with ovf := true } }) := by
  unfold pushStaged
  split
  · exact .inl ⟨by assumption, rfl⟩
  · exact .inr ⟨by omega, rfl⟩

/-- The one way a colour operand names no colour: a palette index of 26 or more (R102). -/
theorem resolveColour_eq_none {co : ColourOperand} :
    resolveColour co = none ↔ ∃ idx, co = .index idx ∧ 26 ≤ idx.toNat := by
  have hl : palette.length = 26 := rfl
  cases co with
  | index idx =>
    rw [resolveColour, List.getElem?_eq_none_iff, hl]
    exact ⟨fun h => ⟨idx, rfl, h⟩, fun ⟨_, he, h⟩ => by cases he; exact h⟩
  | rgb r g b => exact ⟨fun h => (by cases h), fun ⟨_, he, _⟩ => (by cases he)⟩

end Sys2Proof.Machine
end

