-- ==== Sys2Proof/Laws/Bus.lean ====
section
/-! SUPPORT. What one host transaction can do (20_memory.md R51 to R56, R70). -/

namespace Sys2Proof.Machine

theorem sizeBytes_cases {size : BitVec 2} {n : Nat} (h : sizeBytes size = some n) :
    n = 1 ∨ n = 2 ∨ n = 4 := by
  unfold sizeBytes at h
  split at h
  · cases h; simp
  · split at h
    · cases h; simp
    · split at h
      · cases h; simp
      · cases h

/-- An aperture access lies inside PIXMEM, is naturally aligned and has 1, 2 or 4 bytes (R51, R54). -/
theorem accessTarget_aperture {p : Params} {t : Txn} {i n : Nat}
    (h : accessTarget p t = .aperture i n) :
    (n = 1 ∨ n = 2 ∨ n = 4) ∧ i % n = 0 ∧ i + n ≤ 4 * p.maxPixels := by
  unfold accessTarget at h
  split at h
  · cases h
  · rename_i n' hn
    have hcases := sizeBytes_cases hn
    have hbase : apertureBase = 16777216 := rfl
    dsimp only at h
    split at h
    · split at h <;> cases h
    · split at h
      · split at h
        · injection h with h1 h2
          subst h1 h2
          rcases hcases with rfl | rfl | rfl <;> refine ⟨by simp, ?_, ?_⟩ <;> omega
        · cases h
      · cases h

/-- Everything a transaction can do (R55, R61). -/
theorem transact_cases (t : Txn) (s : State) :
    (accessTarget s.params t = .busError ∧
      transact t s = { s with bus := if t.we then .writeError else .readError }) ∨
    (∃ reg, accessTarget s.params t = .register reg ∧
      ((t.we = true ∧ transact t s = { writeReg t.wdata s reg with bus := .written }) ∨
       (t.we = false ∧ transact t s = { s with bus := .readData (readReg s reg) }))) ∨
    (∃ i n, accessTarget s.params t = .aperture i n ∧
      ((t.we = true ∧
          transact t s = { s with pixmem := writeLanes i n t.wdata s.pixmem, bus := .written }) ∨
       (t.we = false ∧ transact t s = { s with bus := .readData (readLanes s.pixmem i n) }))) := by
  unfold transact
  cases accessTarget s.params t with
  | busError => simp
  | register reg => cases t.we <;> simp
  | aperture i n => cases t.we <;> simp

/-- A 32-bit access at an aligned offset of the register window reaches its register (R17, R54). -/
theorem accessTarget_register (p : Params) {t : Txn} (hs : t.size = 2#2) (hr : t.addr.toNat < 0x100)
    (ha : t.addr.toNat % 4 = 0) : accessTarget p t = .register (regAt t.addr.toNat) := by
  simp [accessTarget, sizeBytes, hs, hr, ha]

/-- `MemRead(off, 4)` of a register returns it and changes nothing else (R17, R61). -/
theorem transact_memRead_register {off : BitVec 25} (hr : off.toNat < 0x100)
    (ha : off.toNat % 4 = 0) (s : State) :
    transact (memReadTxn off 4) s = { s with bus := .readData (readReg s (regAt off.toNat)) } := by
  have h := accessTarget_register s.params (t := memReadTxn off 4) rfl hr ha
  simp only [transact, h]
  rfl

/-- `MemWrite(off, 4, v)` of a register writes `v` to it (R17). -/
theorem transact_memWrite_register {off : BitVec 25} (hr : off.toNat < 0x100)
    (ha : off.toNat % 4 = 0) (v : Word) (s : State) :
    transact (memWriteTxn off 4 v) s = { writeReg v s (regAt off.toNat) with bus := .written } := by
  have h := accessTarget_register s.params (t := memWriteTxn off 4 v) rfl hr ha
  have hv : (memWriteTxn off 4 v).wdata = v := by simp [memWriteTxn, ha]
  simp only [transact, h, hv]
  rfl

theorem wf_writeLane {m : Memory} (hm : Memory.wf m) (i n k : Nat) (v : Word) :
    Memory.wf (writeLane i n k v m) := by
  unfold writeLane
  split
  · exact Memory.wf_write hm _ _
  · exact hm

/-- An aperture write keeps the canonical form. -/
theorem wf_writeLanes {m : Memory} (hm : Memory.wf m) (i n : Nat) (v : Word) :
    Memory.wf (writeLanes i n v m) :=
  wf_writeLane (wf_writeLane (wf_writeLane (wf_writeLane hm _ _ _ _) _ _ _ _) _ _ _ _) _ _ _ _

theorem inside_writeLane {m : Memory} {i n k b : Nat} (hm : ∀ c ∈ m, c.1 < b)
    (hi : i + n ≤ b) (v : Word) : ∀ c ∈ writeLane i n k v m, c.1 < b := by
  unfold writeLane
  split
  · rename_i hk
    simp only [laneUsed, Bool.and_eq_true, decide_eq_true_eq] at hk
    refine Memory.inside_write hm ?_ _
    unfold laneIndex
    omega
  · exact hm

/-- An aperture write keeps PIXMEM inside its bytes. -/
theorem inside_writeLanes {m : Memory} {i n b : Nat} (hm : ∀ c ∈ m, c.1 < b) (hi : i + n ≤ b)
    (v : Word) : ∀ c ∈ writeLanes i n v m, c.1 < b :=
  inside_writeLane (inside_writeLane (inside_writeLane (inside_writeLane hm hi v) hi v) hi v) hi v

theorem read_writeLane (i n k a : Nat) (v : Word) (m : Memory) :
    Memory.read (writeLane i n k v m) a =
      if laneUsed i n k = true ∧ a = laneIndex i k then lane v k else Memory.read m a := by
  unfold writeLane
  by_cases hk : laneUsed i n k = true
  · simp [hk, Memory.read_write]
  · simp [hk]

/-- A register write leaves PIXMEM, CUR, STK, BUSY, CHANGED, FILLCNT, the parameters and the inputs. -/
theorem writeReg_frame (v : Word) (s : State) (reg : HostReg) :
    (writeReg v s reg).pixmem = s.pixmem ∧ (writeReg v s reg).cur = s.cur ∧
    (writeReg v s reg).stk = s.stk ∧ (writeReg v s reg).busy = s.busy ∧
    (writeReg v s reg).changed = s.changed ∧ (writeReg v s reg).fillCnt = s.fillCnt ∧
    (writeReg v s reg).params = s.params ∧ (writeReg v s reg).inputs = s.inputs ∧
    (writeReg v s reg).bus = s.bus := by
  cases reg <;> simp [writeReg]

end Sys2Proof.Machine
end

