-- ==== Sys2Proof/Laws/Fill.lean ====
section
/-! SUPPORT. What the FILL traversal can do (41_fill.md R119): every change is the paint of one matching
pixel, a push of one, or a pop. -/

namespace Sys2Proof.Machine

theorem fillMatches_iff {j : FillJob} {m : Memory} {u v : Int} :
    fillMatches j m u v = true ↔ inBounds j.w j.h u v = true ∧ rgbAt m j.w u v = j.target := by
  simp [fillMatches]

theorem fillPush_cases (j : FillJob) (u v : Int) (t : Traversal) :
    (t.stk.length < j.depth ∧ fillPush j u v t =
      .ok ⟨pixWrite t.mem j.w u v j.colour, (u, v) :: t.stk, t.n + 1⟩) ∨
    (j.depth ≤ t.stk.length ∧ fillPush j u v t = .error .stackOverflow) := by
  unfold fillPush
  split
  · exact .inl ⟨by assumption, rfl⟩
  · exact .inr ⟨by omega, rfl⟩

/-- A property that each paint of a matching pixel keeps is kept by a span extension. -/
theorem extendSpan_induct {j : FillJob} {P : Traversal → Prop}
    (hpaint : ∀ t u v, P t → fillMatches j t.mem u v = true → P (fillPaint j u v t)) (y dir : Int)
    (fuel : Nat) (x : Int) (t : Traversal) (ht : P t) : P (extendSpan j y dir fuel x t).2 := by
  induction fuel generalizing x t with
  | zero => exact ht
  | succ n ih =>
    rw [extendSpan]
    split
    · exact ih _ _ (hpaint t _ _ ht (by assumption))
    · exact ht

/-- A property that each paint, push and pop keeps is kept by the whole traversal (R119): the
induction over its loops, done once. -/
theorem fillVisit_induct {j : FillJob} {P : Traversal → Prop}
    (hpush : ∀ t u v, P t → fillMatches j t.mem u v = true → t.stk.length < j.depth →
      P ⟨pixWrite t.mem j.w u v j.colour, (u, v) :: t.stk, t.n + 1⟩)
    {u v : Int} {t t' : Traversal} (ht : P t) (h : fillVisit j u v t = .ok t') : P t' := by
  unfold fillVisit at h
  split at h
  · rename_i hm
    rcases fillPush_cases j u v t with ⟨hd, he⟩ | ⟨_, he⟩
    · rw [he] at h
      cases h
      exact hpush t u v ht hm hd
    · rw [he] at h
      cases h
  · cases h
    exact ht

theorem scanSpan_induct {j : FillJob} {P : Traversal → Prop}
    (hpush : ∀ t u v, P t → fillMatches j t.mem u v = true → t.stk.length < j.depth →
      P ⟨pixWrite t.mem j.w u v j.colour, (u, v) :: t.stk, t.n + 1⟩)
    {y : Int} {len : Nat} {u : Int} {t t' : Traversal} (ht : P t)
    (h : scanSpan j y len u t = .ok t') : P t' := by
  induction len generalizing u t with
  | zero =>
    cases h
    exact ht
  | succ n ih =>
    rw [scanSpan] at h
    split at h
    · cases h
    · rename_i t1 h1
      split at h
      · cases h
      · rename_i t2 h2
        exact ih (fillVisit_induct hpush (fillVisit_induct hpush ht h1) h2) h

theorem fillPopped_induct {j : FillJob} {P : Traversal → Prop}
    (hpaint : ∀ t u v, P t → fillMatches j t.mem u v = true → P (fillPaint j u v t))
    (hpush : ∀ t u v, P t → fillMatches j t.mem u v = true → t.stk.length < j.depth →
      P ⟨pixWrite t.mem j.w u v j.colour, (u, v) :: t.stk, t.n + 1⟩)
    {px py : Int} {t t' : Traversal} (ht : P t) (h : fillPopped j px py t = .ok t') : P t' :=
  scanSpan_induct hpush (extendSpan_induct hpaint _ _ _ _ _ (extendSpan_induct hpaint _ _ _ _ _ ht)) h

theorem fillLoop_induct {j : FillJob} {P : Traversal → Prop}
    (hpaint : ∀ t u v, P t → fillMatches j t.mem u v = true → P (fillPaint j u v t))
    (hpush : ∀ t u v, P t → fillMatches j t.mem u v = true → t.stk.length < j.depth →
      P ⟨pixWrite t.mem j.w u v j.colour, (u, v) :: t.stk, t.n + 1⟩)
    (hpop : ∀ (t : Traversal) p rest, P t → t.stk = p :: rest → P { t with stk := rest })
    {fuel : Nat} {t t' : Traversal} (ht : P t) (h : fillLoop j fuel t = .ok t') : P t' := by
  induction fuel generalizing t with
  | zero =>
    rw [fillLoop] at h
    split at h
    · cases h
      exact ht
    · cases h
  | succ n ih =>
    rw [fillLoop] at h
    split at h
    · cases h
      exact ht
    · rename_i px py rest hs
      simp only at h
      split at h
      · cases h
      · rename_i t1 h1
        exact ih (fillPopped_induct hpaint hpush (hpop t _ _ ht hs) h1) h

/-- A traversal that ends leaves STK empty (10_state.md R42). -/
theorem fillLoop_stk {j : FillJob} {fuel : Nat} {t t' : Traversal}
    (h : fillLoop j fuel t = .ok t') : t'.stk = [] := by
  induction fuel generalizing t with
  | zero =>
    rw [fillLoop] at h
    split at h
    · cases h
      assumption
    · cases h
  | succ n ih =>
    rw [fillLoop] at h
    split at h
    · cases h
      assumption
    · simp only at h
      split at h
      · cases h
      · exact ih h

/-- The same, from the push of the seed on. -/
theorem fillTraverse_induct {j : FillJob} {P : Traversal → Prop}
    (hpaint : ∀ t u v, P t → fillMatches j t.mem u v = true → P (fillPaint j u v t))
    (hpush : ∀ t u v, P t → fillMatches j t.mem u v = true → t.stk.length < j.depth →
      P ⟨pixWrite t.mem j.w u v j.colour, (u, v) :: t.stk, t.n + 1⟩)
    (hpop : ∀ (t : Traversal) p rest, P t → t.stk = p :: rest → P { t with stk := rest })
    {x y : Int} {m : Memory} {stk : List (Int × Int)} {t : Traversal}
    (hseed : P ⟨pixWrite m j.w x y j.colour, (x, y) :: stk, 1⟩)
    (h : fillTraverse j x y m stk = .ok t) : P t := by
  unfold fillTraverse at h
  rcases fillPush_cases j x y ⟨m, stk, 0⟩ with ⟨_, he⟩ | ⟨_, he⟩
  · rw [he] at h
    exact fillLoop_induct hpaint hpush hpop hseed h
  · rw [he] at h
    cases h

theorem fillTraverse_stk {j : FillJob} {x y : Int} {m : Memory} {stk : List (Int × Int)}
    {t : Traversal} (h : fillTraverse j x y m stk = .ok t) : t.stk = [] := by
  unfold fillTraverse at h
  split at h
  · cases h
  · exact fillLoop_stk h

/-- A property of PIXMEM that each paint of an in-bounds pixel keeps is kept by a traversal from an
in-bounds seed. -/
theorem fillTraverse_memory {j : FillJob} {Q : Memory → Prop}
    (hQ : ∀ m u v, Q m → inBounds j.w j.h u v = true → Q (pixWrite m j.w u v j.colour))
    {x y : Int} {m : Memory} {stk : List (Int × Int)} {t : Traversal} (hm : Q m)
    (hb : inBounds j.w j.h x y = true) (h : fillTraverse j x y m stk = .ok t) : Q t.mem :=
  fillTraverse_induct (P := fun t => Q t.mem)
    (fun t u v ht hu => hQ t.mem u v ht (fillMatches_iff.mp hu).1)
    (fun t u v ht hu _ => hQ t.mem u v ht (fillMatches_iff.mp hu).1)
    (fun _ _ _ ht _ => ht) (hQ m x y hm hb) h

/-- Everything `Fill(x, y, c)` can answer (R115). -/
theorem fillAt_cases (x y : Int) (c : Colour) (s : State) :
    ((inBounds s.cur.w.toNat s.cur.h.toNat x y = false ∨ rgbAt s.pixmem s.cur.w.toNat x y = c) ∧
      fillAt x y c s = .next (setFillResult 0 s)) ∨
    (inBounds s.cur.w.toNat s.cur.h.toNat x y = true ∧ rgbAt s.pixmem s.cur.w.toNat x y ≠ c ∧
      ((∃ e, fillTraverse (fillJob x y c s) x y s.pixmem s.stk = .error e ∧ fillAt x y c s = .fault e) ∨
       (∃ t, fillTraverse (fillJob x y c s) x y s.pixmem s.stk = .ok t ∧
          fillAt x y c s = .next (setFillResult t.n { s with pixmem := t.mem, stk := t.stk })))) := by
  unfold fillAt
  cases hb : inBounds s.cur.w.toNat s.cur.h.toNat x y
  · simp
  · by_cases hc : rgbAt s.pixmem s.cur.w.toNat x y = c
    · simp [hc]
    · cases ht : fillTraverse (fillJob x y c s) x y s.pixmem s.stk with
      | error e => simp [hc]
      | ok t => simp [hc]

end Sys2Proof.Machine
end

