-- ==== Sys2Proof/Laws/Line.lean ====
section
/-! SUPPORT. Membership in the lists a LINE and a CLEAR run over, and the unfolding of a trace. -/

namespace Sys2Proof.Machine

theorem mem_stampCells {r i j : Nat} : (i, j) ∈ stampCells r ↔ i < stampSide r ∧ j < stampSide r := by
  simp [stampCells]

theorem cellPainted_iff {r i j : Nat} {dot : Bool} :
    cellPainted r dot i j = true ↔
      cellClass r i j = .edge ∨ (dot = true ∧ cellClass r i j = .interior) := by
  unfold cellPainted
  cases cellClass r i j <;> simp

/-- The points of a stroke are those of rule R141's set, before clipping. -/
theorem mem_strokePoints {x1 y1 x2 y2 : Int} {r : Nat} {u v : Int} :
    (u, v) ∈ strokePoints x1 y1 x2 y2 r ↔ OnStroke x1 y1 x2 y2 r u v := by
  unfold strokePoints OnStroke CellChosen
  simp only [List.mem_flatMap, List.mem_filter, Prod.exists, mem_stampCells, cellPainted_iff,
    decide_eq_true_eq]
  constructor
  · rintro ⟨i, j, ⟨⟨hi, hj⟩, hc⟩, hm⟩
    exact ⟨i, j, ⟨hi, hj, hc⟩, hm⟩
  · rintro ⟨i, j, ⟨hi, hj, hc⟩, hm⟩
    exact ⟨i, j, ⟨⟨hi, hj⟩, hc⟩, hm⟩

theorem mem_bufferPixels {w h : Nat} {u v : Int} :
    (u, v) ∈ bufferPixels w h ↔ inBounds w h u v = true := by
  rw [inBounds_iff]
  simp only [bufferPixels, List.mem_flatMap, List.mem_range, List.mem_map, Prod.mk.injEq]
  constructor
  · rintro ⟨y, hy, x, hx, rfl, rfl⟩
    omega
  · rintro ⟨h0, hw, h1, hh⟩
    exact ⟨v.toNat, by omega, u.toNat, by omega, by omega, by omega⟩

theorem traceFrom_zero (dx dy sx sy xb yb x y err : Int) :
    traceFrom dx dy sx sy xb yb 0 x y err = [(x, y)] := rfl

theorem traceFrom_done (dx dy sx sy xb yb err : Int) (fuel : Nat) :
    traceFrom dx dy sx sy xb yb fuel xb yb err = [(xb, yb)] := by
  cases fuel <;> simp [traceFrom]

/-- The early-out of a LINE (42_line.md R144) and its painting, the two things `Line` can do. -/
theorem lineBetween_cases (x1 y1 x2 y2 : Int) (c : Colour) (width : Byte) (s : State) :
    (boxEmpty s.cur.w.toNat s.cur.h.toNat x1 y1 x2 y2 width.toNat = true ∧
      lineBetween x1 y1 x2 y2 c width s = s) ∨
    (boxEmpty s.cur.w.toNat s.cur.h.toNat x1 y1 x2 y2 width.toNat = false ∧
      lineBetween x1 y1 x2 y2 c width s = { s with
        pixmem := paintClipped s.cur.w.toNat s.cur.h.toNat c
          (strokePoints x1 y1 x2 y2 (brushRadius width)) s.pixmem }) := by
  unfold lineBetween
  cases boxEmpty s.cur.w.toNat s.cur.h.toNat x1 y1 x2 y2 width.toNat <;> simp

end Sys2Proof.Machine
end

