-- ==== Sys2Proof/Laws/Engine.lean ====
section
/-! SUPPORT. What the engine and a step can do, once for all: proofs about steps start here. -/

namespace Sys2Proof.Machine

/-- Everything `exec` can answer with a next state: a discard, the flags of a skip or of a FILL without
effect, a finished traversal, or painted pixels. -/
theorem exec_next_cases {i : Instr} {s t : State} (h : exec i s = .next t) :
    (∃ code, code ≠ .none ∧ t = recordError code s) ∨
    (∃ op, i = .skip op ∧ t = countSkip s) ∨
    (∃ x y co, i = .fill x y co ∧ t = setFillResult 0 s) ∨
    (∃ x y co c tr, i = .fill x y co ∧
      configOk s.params s.cur.w.toNat s.cur.h.toNat = true ∧ resolveColour co = some c ∧
      inBounds s.cur.w.toNat s.cur.h.toNat (coordValue x) (coordValue y) = true ∧
      rgbAt s.pixmem s.cur.w.toNat (coordValue x) (coordValue y) ≠ c ∧
      fillTraverse (fillJob (coordValue x) (coordValue y) c s) (coordValue x) (coordValue y)
        s.pixmem s.stk = .ok tr ∧
      t = setFillResult tr.n { s with pixmem := tr.mem, stk := tr.stk }) ∨
    (∃ c l, (∀ x y co, i ≠ .fill x y co) ∧
      configOk s.params s.cur.w.toNat s.cur.h.toNat = true ∧
      t = { s with pixmem := paintClipped s.cur.w.toNat s.cur.h.toNat c l s.pixmem }) := by
  cases i with
  | skip op =>
    simp only [exec, execSkip, Host.Outcome.next.injEq] at h
    exact .inr (.inl ⟨op, rfl, h.symm⟩)
  | fill x y co =>
    simp only [exec, execFill] at h
    rcases withChecks_cases co s fun c => fillAt (coordValue x) (coordValue y) c s with
      ⟨_, he⟩ | ⟨_, _, he⟩ | ⟨c, hc, hr, he⟩
    · rw [he] at h
      cases h
      exact .inl ⟨.config, by decide, rfl⟩
    · rw [he] at h
      cases h
      exact .inl ⟨.badColor, by decide, rfl⟩
    · rw [he] at h
      rcases fillAt_cases (coordValue x) (coordValue y) c s with
        ⟨_, hf⟩ | ⟨hb, hne, ⟨e, _, hf⟩ | ⟨tr, htr, hf⟩⟩
      · rw [hf] at h
        cases h
        exact .inr (.inr (.inl ⟨x, y, co, rfl, rfl⟩))
      · rw [hf] at h
        cases h
      · rw [hf] at h
        cases h
        exact .inr (.inr (.inr (.inl ⟨x, y, co, c, tr, rfl, hc, hr, hb, hne, htr, rfl⟩)))
  | line x1 y1 x2 y2 width co =>
    simp only [exec, execLine] at h
    rcases withChecks_cases co s fun c =>
        if width = 0#8 then .next (recordError .badWidth s)
        else .next (lineBetween (coordValue x1) (coordValue y1) (coordValue x2) (coordValue y2) c width s)
      with ⟨_, he⟩ | ⟨_, _, he⟩ | ⟨c, hc, hr, he⟩
    · rw [he] at h
      cases h
      exact .inl ⟨.config, by decide, rfl⟩
    · rw [he] at h
      cases h
      exact .inl ⟨.badColor, by decide, rfl⟩
    · rw [he] at h
      by_cases hw : width = 0#8
      · simp only [hw, if_true] at h
        cases h
        exact .inl ⟨.badWidth, by decide, rfl⟩
      · simp only [hw, if_false] at h
        cases h
        refine .inr (.inr (.inr (.inr ?_)))
        rcases lineBetween_cases (coordValue x1) (coordValue y1) (coordValue x2) (coordValue y2) c
            width s with ⟨_, hl⟩ | ⟨_, hl⟩
        · exact ⟨c, [], by simp, hc, by rw [hl]; rfl⟩
        · exact ⟨c, _, by simp, hc, hl⟩
  | clear co =>
    simp only [exec, execClear] at h
    rcases withChecks_cases co s fun c => .next (clearTo c s) with
      ⟨_, he⟩ | ⟨_, _, he⟩ | ⟨c, hc, hr, he⟩
    · rw [he] at h
      cases h
      exact .inl ⟨.config, by decide, rfl⟩
    · rw [he] at h
      cases h
      exact .inl ⟨.badColor, by decide, rfl⟩
    · rw [he] at h
      cases h
      exact .inr (.inr (.inr (.inr ⟨c, _, by simp, hc, rfl⟩)))

/-- No command is refused. -/
theorem exec_not_refused (i : Instr) (s : State) (r : Refusal) : exec i s ≠ .refused r := by
  intro h
  cases i with
  | skip op => simp [exec, execSkip] at h
  | fill x y co =>
    simp only [exec, execFill] at h
    rcases withChecks_cases co s fun c => fillAt (coordValue x) (coordValue y) c s with
      ⟨_, he⟩ | ⟨_, _, he⟩ | ⟨c, _, _, he⟩
    · simp [he] at h
    · simp [he] at h
    · rw [he] at h
      rcases fillAt_cases (coordValue x) (coordValue y) c s with
        ⟨_, hf⟩ | ⟨_, _, ⟨e, _, hf⟩ | ⟨tr, _, hf⟩⟩ <;> simp [hf] at h
  | line x1 y1 x2 y2 width co =>
    simp only [exec, execLine, withChecks] at h
    split at h
    · split at h
      · split at h <;> cases h
      · cases h
    · cases h
  | clear co =>
    simp only [exec, execClear, withChecks] at h
    split at h
    · split at h <;> cases h
    · cases h

/-- Everything a completion can answer with a next state (40_dispatch.md R99, R104). -/
theorem complete_next {s t : State} (h : complete s = .next t) :
    ∃ u, exec (decodePacket s.cur.packet) s = .next u ∧ t = finishCommand u := by
  unfold complete at h
  split at h
  · cases h
    exact ⟨_, by assumption, rfl⟩
  · cases h
  · cases h

/-- Everything the engine's turn can answer with a next state (R97 to R99). -/
theorem engineStep_next {s t : State} (h : engineStep s = .next t) :
    (s.busy = true ∧ ∃ u, exec (decodePacket s.cur.packet) { s with bus := .notReady } = .next u ∧
      t = finishCommand u) ∨
    (s.busy = false ∧ s.run = true ∧ ∃ p rest, s.queue = p :: rest ∧
      t = latch p { s with queue := rest, bus := .notReady }) ∨
    (s.busy = false ∧ dispatchEnabled s = false ∧ t = { s with bus := .notReady }) := by
  unfold engineStep at h
  cases hb : s.busy
  · simp only [hb, Bool.false_eq_true, if_false] at h
    cases hd : dispatchEnabled s
    · simp only [hd, Bool.false_eq_true, if_false] at h
      cases h
      simp
    · simp only [hd, if_true] at h
      cases h
      simp only [dispatchEnabled, hb, Bool.not_false, Bool.and_true, Bool.and_eq_true] at hd
      refine .inr (.inl ⟨rfl, hd.1, ?_⟩)
      cases hq : s.queue with
      | nil => simp [hq] at hd
      | cons p rest => exact ⟨p, rest, rfl, by simp [dispatchHead]⟩
  · simp only [hb, if_true] at h
    exact .inl ⟨rfl, complete_next h⟩

/-- Everything a step can answer with a next state (20_memory.md R64): a host transaction that is not
held, a reset, a read of WAIT, or the engine's turn. -/
theorem step_next {s t : State} (h : step s = .next t) :
    (∃ txn rest, s.inputs = .host txn :: rest ∧ held txn s = false ∧
      t = transact txn { s with inputs := rest }) ∨
    (∃ written rest, s.inputs = .reset written :: rest ∧
      t = resetStep written { s with inputs := rest }) ∨
    (∃ ins, t = pollStatus { s with inputs := ins }) ∨
    (∃ ins, engineStep { s with inputs := ins } = .next t) := by
  unfold step nextStep at h
  split at h
  · rename_i hi
    exact .inr (.inr (.inr ⟨[], by rw [← hi]; exact h⟩))
  · rename_i txn rest hi
    cases hh : held txn s
    · simp only [hh, Bool.false_eq_true, if_false] at h
      cases h
      exact .inl ⟨txn, rest, hi, hh, rfl⟩
    · simp only [hh, if_true] at h
      exact .inr (.inr (.inr ⟨s.inputs, h⟩))
  · exact .inr (.inr (.inr ⟨_, h⟩))
  · rename_i rest hi
    unfold waitStep at h
    split at h
    · cases h
      exact .inr (.inr (.inl ⟨rest, rfl⟩))
    · split at h
      · exact .inr (.inr (.inr ⟨s.inputs, h⟩))
      · cases h
        exact .inr (.inr (.inl ⟨s.inputs, rfl⟩))
  · rename_i written rest hi
    cases h
    exact .inr (.inl ⟨written, rest, hi, rfl⟩)

theorem read_abandonedMemory (old new : Memory) (written : List Nat) (a : Nat) :
    Memory.read (abandonedMemory old new written) a =
      if a ∈ written then Memory.read new a else Memory.read old a := by
  induction written with
  | nil => simp [abandonedMemory]
  | cons b rest ih =>
    rw [abandonedMemory, Memory.read_write, ih]
    by_cases hab : a = b
    · simp [hab]
    · simp [hab]

theorem wf_abandonedMemory {old : Memory} (h : Memory.wf old) (new : Memory) (written : List Nat) :
    Memory.wf (abandonedMemory old new written) := by
  induction written with
  | nil => exact h
  | cons b rest ih => exact Memory.wf_write ih _ _

end Sys2Proof.Machine
end

