-- ==== Sys2Proof/Laws/PerInstr.lean ====
section
/-! SUPPORT. The family EncodedOpcode, one lemma for each constructor of `Instr`: OP of the encoded packet
is the opcode spec/opcode_table.json gives the row (30_encoding.md R82, R88). -/

namespace Sys2Proof

/-- The opcode of the row (R82). -/
def Instr.opcode : Instr → Byte
  | .fill _ _ _ => 0x01#8
  | .line _ _ _ _ _ _ => 0x02#8
  | .clear _ => 0x03#8
  | .skip op => op

/-- OP is the low byte of W0 as `encodeW0` lays it out. -/
theorem encodeW0_op (op width : Byte) (csel : BitVec 1) :
    (encodeW0 op width csel).extractLsb' 0 8 = op :=
  BitVec.extractLsb'_append_eq_right (a := 0#8 ++ width ++ 0#7 ++ csel) (b := op)

/-- OP of the packet written for an instruction is its row's opcode. -/
def Laws.EncodedOpcode.Statement (i : Instr) : Prop := (encode i).op = i.opcode

theorem Laws.EncodedOpcode.fill (x y : Coord) (c : ColourOperand) :
    Laws.EncodedOpcode.Statement (.fill x y c) := encodeW0_op _ _ _

theorem Laws.EncodedOpcode.line (x1 y1 x2 y2 : Coord) (width : Byte) (c : ColourOperand) :
    Laws.EncodedOpcode.Statement (.line x1 y1 x2 y2 width c) := encodeW0_op _ _ _

theorem Laws.EncodedOpcode.clear (c : ColourOperand) :
    Laws.EncodedOpcode.Statement (.clear c) := encodeW0_op _ _ _

theorem Laws.EncodedOpcode.skip (op : Byte) : Laws.EncodedOpcode.Statement (.skip op) :=
  encodeW0_op _ _ _

end Sys2Proof
end

