-- ==== Sys2Proof/Tests/Slice0.lean ====
section
/-! SUPPORT. Tests: expected results are those of spec/95_test_vectors.md (named in each comment) or hand
calculations from the rules; and, for each statement with hypotheses, a state and operands that meet them. -/

namespace Sys2Proof.Tests

open Sys2Proof.Machine

/-! ### Helpers -/

/-- Right after reset, with the reference parameters. -/
def base : State := State.powerUp Params.reference [] []

/-- RUN = 1, a buffer of `w` x `h` in CFG_DIM and latched, and the given PIXMEM. -/
def buffer (w h : BitVec 16) (m : Memory) : State :=
  { base with cfgDim := h ++ w, cur := ⟨⟨0#32, 0#32, 0#32, 0#32⟩, w, h⟩, run := true, pixmem := m }

/-- The next state, if the result is one. -/
def nextOf (r : Result) : Option State :=
  match r with
  | .next t => some t
  | .fault _ => none
  | .refused _ => none

/-- The word a 32-bit read at a block offset returns after a result. -/
def wordAt (off : BitVec 25) (r : Result) : Option Word :=
  (nextOf r).bind fun t => (transact (memReadTxn off 4) t).bus.rdata

/-- The pixel word of pixel number `k` of the aperture after a result. -/
def pixelWordAt (k : Nat) (r : Result) : Option Word := wordAt (BitVec.ofNat 25 (apertureBase + 4 * k)) r

/-- STATUS after a result. -/
def statusOf (r : Result) : Option Word := (nextOf r).map statusWord

/-! ### WellFormed: the one check -/

/-- A skipped packet cannot have a known opcode (R83). -/
theorem test_skip_of_known_opcode_is_ill_formed :
    (Instr.skip 0x01#8).wellFormed = false ∧ (Instr.skip 0x02#8).wellFormed = false ∧
      (Instr.skip 0x03#8).wellFormed = false := by decide

theorem test_skip_of_unknown_opcode_is_well_formed :
    (Instr.skip 0x00#8).wellFormed = true ∧ (Instr.skip 0x04#8).wellFormed = true := by decide

/-! ### Decoding: words written out from R76 to R79 and the table of R88 -/

theorem test_decode_fill_palette :
    decodePacket ⟨0x00000001#32, 0x0000FFFF#32, 0#32, 0x0000000D#32⟩ =
      .fill 0xFFFF#16 0x0000#16 (.index 13#8) := by decide

/-- V14: reserved bits and WIDTH set, CSEL = 1; the colour is (0, 0, 13). -/
theorem test_decode_fill_ignored_bits :
    decodePacket ⟨0xFFFFFF01#32, 0#32, 0#32, 0x0000000D#32⟩ =
      .fill 0#16 0#16 (.rgb 0#8 0#8 13#8) := by decide

theorem test_decode_line :
    decodePacket ⟨0x00010002#32, 0x0001FFFD#32, 0x00010002#32, 0x00000002#32⟩ =
      .line 0xFFFD#16 1#16 2#16 1#16 1#8 (.index 2#8) := by decide

/-- C2: CLEAR #123456. -/
theorem test_decode_clear :
    decodePacket ⟨0x00000103#32, 0#32, 0#32, 0x00123456#32⟩ =
      .clear (.rgb 0x12#8 0x34#8 0x56#8) := by decide

theorem test_decode_skip :
    decodePacket ⟨0x0000007F#32, 0#32, 0#32, 0#32⟩ = .skip 0x7F#8 := by decide

theorem test_decode_rejects_other_lengths : decodeWords [1#32, 0#32, 0#32] =
    Except.error (DecodeError.notOnePacket 12) := by rfl

theorem test_decodeTableWord : decodeTableWord 32 0x00000103 = some (.clear (.rgb 0#8 0#8 0#8)) := by
  decide

/-- R88: LINE 5, 5, 5, 5, 8, @13. -/
theorem test_encode_dot : encode (dotInstr 5#16 5#16 8#8 (.index 13#8)) =
    ⟨0x00080002#32, 0x00050005#32, 0x00050005#32, 0x0000000D#32⟩ := by decide

/-- R88: from the text. -/
theorem test_assemble_text : assembleText "line -3, 1, 2, 1, 1, @2".toList =
    some ⟨0x00010002#32, 0x0001FFFD#32, 0x00010002#32, 0x00000002#32⟩ := by decide

/-- A line of P1 with its comment, and a PUSH. -/
theorem test_host_form_text :
    readHostForm "WR   0x00C, 0x0004_0004            ; W = 4, H = 4".toList =
      some (.wr 0x00C#25 0x00040004#32) ∧
    readHostForm "PUSH CLEAR @0                      ; 0x0000_0003".toList =
      some (.push ⟨3#32, 0#32, 0#32, 0#32⟩) := by decide

/-- R90: colour 26 is encodable; 256 is refused. -/
theorem test_wire_colour : wirePacket (.fill 0 0 26) = some ⟨1#32, 0#32, 0#32, 26#32⟩ ∧
    wirePacket (.fill 0 0 256) = none := by decide

/-! ### FILL -/

/-- F10: 3 x 1, words 0x00FF_FFFF, 0xFFFF_FFFF, 0xFFFE_FFFF. -/
def f10 : State := buffer 3#16 1#16
  [(0, 255#8), (1, 255#8), (2, 255#8), (4, 255#8), (5, 255#8), (6, 255#8), (7, 255#8),
   (8, 255#8), (9, 255#8), (10, 254#8), (11, 255#8)]

theorem test_fill_ignores_alpha :
    pixelWordAt 0 (exec (.fill 1#16 0#16 (.index 13#8)) f10) = some 0xFF000000#32 ∧
    pixelWordAt 1 (exec (.fill 1#16 0#16 (.index 13#8)) f10) = some 0xFF000000#32 ∧
    pixelWordAt 2 (exec (.fill 1#16 0#16 (.index 13#8)) f10) = some 0xFFFEFFFF#32 ∧
    (nextOf (exec (.fill 1#16 0#16 (.index 13#8)) f10)).map (fun t => (t.changed, t.fillCnt)) =
      some (true, 2#32) := by decide

/-- R115 (as F5, on a 2 x 2 buffer): (0,0) and (1,1) are black, the other two are not; diagonals do not
connect. -/
theorem test_fill_diagonals_do_not_connect :
    (nextOf (exec (.fill 0#16 0#16 (.rgb 255#8 0#8 0#8))
      (buffer 2#16 2#16 [(4, 1#8), (8, 1#8)]))).map (fun t => (t.changed, t.fillCnt)) =
      some (true, 1#32) := by decide

/-! ### LINE -/

/-- T4, T8 and T9. -/
theorem test_trace : trace 0 0 (-4) 1 = [(0, 0), (-1, 0), (-2, 0), (-3, 1), (-4, 1)] ∧
    trace 0 0 2 1 = [(0, 0), (1, 0), (2, 1)] ∧ trace 2 1 0 0 = [(2, 1), (1, 1), (0, 0)] := by decide

/-- N4: DOT 1,1,2 paints (0,1), (1,0), (1,1); here on a 2 x 2 buffer. -/
theorem test_dot_of_width_two :
    let r := exec (.line 1#16 1#16 1#16 1#16 2#8 (.index 2#8)) (buffer 2#16 2#16 [])
    pixelWordAt 0 r = some 0#32 ∧ pixelWordAt 1 r = some 0xFF0B13EF#32 ∧
      pixelWordAt 2 r = some 0xFF0B13EF#32 ∧ pixelWordAt 3 r = some 0xFF0B13EF#32 := by decide

/-- The stamp of width 6 (r = 3): 26 EDGE cells, 1 INTERIOR. -/
theorem test_stamp_counts :
    ((stampCells 3).filter fun c => cellClass 3 c.1 c.2 = .edge).length = 26 ∧
    ((stampCells 3).filter fun c => cellClass 3 c.1 c.2 = .interior).length = 1 := by decide

/-! ### CLEAR and SKIP -/

/-- C2 and, past the buffer, C1. -/
theorem test_clear_rgb :
    let r := exec (.clear (.rgb 0x12#8 0x34#8 0x56#8)) (buffer 2#16 1#16 [(8, 7#8)])
    pixelWordAt 0 r = some 0xFF563412#32 ∧ pixelWordAt 1 r = some 0xFF563412#32 ∧
      pixelWordAt 2 r = some 7#32 := by decide

/-- C5: SKIPCNT wraps. -/
theorem test_skip_wraps :
    (nextOf (exec (.skip 0x7F#8) { base with skipCnt := 0xFFFFFFFF#32 })).map (·.skipCnt) =
      some 0#32 := by decide

/-- V12: skipped even on an illegal geometry; STATUS = 0x1A. -/
theorem test_step_skip_status :
    statusOf (step (base.withFetchWord 32 0x00000004)) = some 0x0000001A#32 := by decide

/-- V1, V10, V11: CONFIG; BAD_COLOR before BAD_WIDTH; CONFIG before both. V9: BAD_WIDTH. -/
theorem test_step_error_status :
    statusOf (step (base.withFetchWord 32 0x00000003)) = some 0x00000116#32 ∧
    statusOf (step ((buffer 4#16 4#16 []).withFetchWord 128 (0x28 * 2 ^ 96 + 2))) =
      some 0x00000216#32 ∧
    statusOf (step (base.withFetchWord 128 (0x28 * 2 ^ 96 + 2))) = some 0x00000116#32 ∧
    statusOf (step ((buffer 4#16 4#16 []).withFetchWord 128 (0xD * 2 ^ 96 + 3 * 2 ^ 64 + 2))) =
      some 0x00000316#32 := by decide

/-! ### Registers and the bus -/

/-- B1, B2, B3, L1-7. -/
theorem test_constant_registers :
    wordAt 0x000#25 (.next base) = some 0x53435242#32 ∧ wordAt 0x004#25 (.next base) = some 0x00100400#32 ∧
    wordAt 0x008#25 (.next base) = some 0x00100000#32 ∧ wordAt 0x088#25 (.next base) = some 0x00EF130B#32 ∧
    wordAt 0x0E4#25 (.next base) = some 0x00D1A3A4#32 ∧ wordAt 0x0E8#25 (.next base) = some 0#32 := by
  decide

/-- B7, B8, B9, B10: BusError. -/
theorem test_bus_errors :
    (transact (memReadTxn 0x100#25 4) base).bus = .readError ∧
    (transact (memReadTxn 0x014#25 2) base).bus = .readError ∧
    (transact (memReadTxn 0x1000002#25 4) base).bus = .readError ∧
    (transact (memReadTxn 0x1400000#25 1) base).bus = .readError := by decide

/-- Pixel (0, 0) is palette 2, A = 255. -/
def redPixel : State := { base with pixmem := [(0, 0xEF#8), (1, 0x13#8), (2, 0x0B#8), (3, 0xFF#8)] }

/-- B11, B12, B13: words, and bytes and halves in their lanes. -/
theorem test_byte_lanes :
    (transact (memReadTxn 0x1000000#25 4) redPixel).bus = .readData 0xFF0B13EF#32 ∧
    (transact (memReadTxn 0x1000001#25 1) redPixel).bus = .readData 0x00001300#32 ∧
    (transact (memReadTxn 0x1000003#25 1) redPixel).bus = .readData 0xFF000000#32 ∧
    (transact (memReadTxn 0x1000002#25 2) redPixel).bus = .readData 0xFF0B0000#32 := by decide

/-- B14: an 8-bit write. -/
theorem test_byte_write :
    Memory.read (transact (memWriteTxn 0x1000001#25 1 0#32) redPixel).pixmem 1 = 0#8 ∧
    Memory.read (transact (memWriteTxn 0x1000001#25 1 0#32) redPixel).pixmem 2 = 0x0B#8 := by decide

/-- STATUS = 0x316: DONE, ERR, IDLE and BAD_WIDTH. -/
def after0316 : State :=
  { base with events := ⟨true, true, false, true, false⟩, errCode := .badWidth }

/-- B15, B16. -/
theorem test_status_write :
    wordAt 0x014#25 (.next after0316) = some 0x00000316#32 ∧
    wordAt 0x014#25 (.next (transact (memWriteTxn 0x014#25 4 0x4#32) after0316)) = some 0x12#32 ∧
    wordAt 0x014#25 (.next (transact (memWriteTxn 0x014#25 4 0#32) after0316)) = some 0x316#32 := by
  decide

/-- B20, B21: irq. -/
theorem test_irq :
    irq after0316 = false ∧ irq (transact (memWriteTxn 0x018#25 4 0x4#32) after0316) = true ∧
    irq (transact (memWriteTxn 0x014#25 4 0x4#32)
      (transact (memWriteTxn 0x018#25 4 0x4#32) after0316)) = false := by decide

/-- X1: a byte written before the reset keeps the new value, the others the old. -/
theorem test_reset_during_clear :
    (nextOf (step { (buffer 1#16 1#16 []).withFetchWord 32 0x00000003 with
      inputs := [.reset [1, 3]] })).map (fun t => (t.pixmem, t.busy, t.cfgDim)) =
      some ([(1, 255#8), (3, 255#8)], false, 0#32) := by decide

/-- The canonical form drops a byte that reads as unlisted. -/
theorem test_write_keeps_canonical_form :
    Memory.write (Memory.write (Memory.write [] 5 1#8) 2 3#8) 5 0#8 = [(2, 3#8)] := by decide

/-! ### Witnesses: states and operands that meet the statements' hypotheses -/

/-- A packet of `CLEAR @0`. -/
def clearPacket : Packet := ⟨3#32, 0#32, 0#32, 0#32⟩

/-- A state that keeps the invariant, with a command running, another queued, and inputs to come. -/
def running (ins : List Input) : State :=
  { buffer 1#16 1#16 [(2, 9#8)] with
    busy := true, cur := ⟨clearPacket, 1#16, 1#16⟩, queue := [clearPacket], inputs := ins }

/-- The same, idle. -/
def waiting (run : Bool) (q : List Packet) (ins : List Input) : State :=
  { running ins with busy := false, run := run, queue := q }

/-- EveryStepKeepsTheInvariant, NoStepStops, EngineDrainsTheQueue, ReplayIsDeterministic,
HeldAccessIsPerformed: the invariant holds of it, whatever inputs come. -/
theorem witness_inv_running (ins : List Input) : Inv (running ins) :=
  have h : Inv (running []) :=
    ⟨by decide, by decide, by decide, by decide, rfl, fun _ => by decide, by decide⟩
  ⟨h.1, h.2, h.3, h.4, h.5, h.6, h.7⟩

/-- ReplayFromClearForgetsPixmem. -/
theorem witness_inv_waiting (ins : List Input) : Inv (waiting true [clearPacket] ins) :=
  have h : Inv (waiting true [clearPacket] []) :=
    ⟨by decide, by decide, by decide, by decide, rfl, fun _ => by decide, by decide⟩
  ⟨h.1, h.2, h.3, h.4, h.5, h.6, h.7⟩

/-- EveryStepKeepsTheFillCount. -/
theorem witness_countInv_running : CountInv (running [.engine]) := ⟨by decide, by decide⟩

/-- DecodeOfEncodeIsTheCommand. -/
theorem witness_wellFormed : (Instr.line 0x8000#16 0x7FFF#16 0#16 1#16 0#8 (.index 255#8)).wellFormed =
    true ∧ (Instr.skip 0xFF#8).wellFormed = true := by decide

/-- IgnoredBitsHaveNoEffect: two packets that differ in ignored bits only. -/
theorem witness_ignored_bits : readBits ⟨0xFF00FE03#32, 5#32, 6#32, 0xFFFFFF0D#32⟩ =
    readBits ⟨0x00000003#32, 0#32, 0#32, 0x0000000D#32⟩ := by decide

/-- OpcodeSelectsTheCommand: each clause. -/
theorem witness_opcodes :
    (0x00000001#32).extractLsb' 0 8 = 0x01#8 ∧ (0xFFFFFF02#32).extractLsb' 0 8 = 0x02#8 ∧
    (0x00000103#32).extractLsb' 0 8 = 0x03#8 ∧ (0x00000100#32).extractLsb' 0 8 = 0x00#8 := by decide

/-- AssembledLineDecodes: both clauses at the ends of their ranges. -/
theorem witness_operand_ranges :
    (assemble (.line (-32768) 32767 0 0 255 (.index 255))).isSome = true ∧
    assemble (.line (-32769) 0 0 0 1 (.index 0)) = none ∧
    assemble (.line 0 32768 0 0 1 (.index 0)) = none ∧
    assemble (.line 0 0 0 0 256 (.index 0)) = none ∧
    assemble (.line 0 0 0 0 0 (.index (-1))) = none := by decide

/-- WireRecordsTranslate: both ranges at their ends, for each kind of record. -/
theorem witness_wire_ranges : (wirePacket (.fill (-32768) 32767 255)).isSome = true ∧
    wirePacket (.fill 32768 0 0) = none ∧
    (wirePacket (.line (-32768) 32767 0 0 255 0)).isSome = true ∧
    wirePacket (.line 0 0 0 (-32769) 0 1) = none ∧ wirePacket (.line 0 0 0 0 256 1) = none ∧
    wirePacket (.line 0 0 0 0 0 256) = none := by decide

/-- StepRunsTheDecodedCommand, CompletionBookkeeping: a command runs and its completion is next. -/
theorem witness_completion_is_next :
    (running [.engine]).busy = true ∧ (running [.engine]).inputs = [.engine] ∧
    decodePacket (running [.engine]).cur.packet = .clear (.index 0#8) ∧
    (nextOf (step (running [.engine]))).isSome = true := by decide

/-- DispatchTakesTheHead. -/
theorem witness_dispatch_enabled :
    (waiting true [clearPacket] [.engine]).run = true ∧
    (waiting true [clearPacket] [.engine]).busy = false ∧
    (waiting true [clearPacket] [.engine]).queue = clearPacket :: [] ∧
    (waiting true [clearPacket] [.engine]).inputs = .engine :: [] := by decide

/-- IdleEngineChangesNothing: with RUN = 0, and with an empty queue. -/
theorem witness_engine_idle :
    (waiting false [clearPacket] [.engine]).busy = false ∧
    (waiting false [clearPacket] [.engine]).run = false ∧
    (waiting true [] [.engine]).busy = false ∧ (waiting true [] [.engine]).queue = [] := by decide

/-- ClearPaintsTheWholeBuffer, LinePaintsItsStroke, FillPaintsItsComponent: the checks pass on f10,
a seed is in bounds with another colour, and STK is empty. -/
theorem witness_checks_pass :
    configOk f10.params f10.cur.w.toNat f10.cur.h.toNat = true ∧
    resolveColour (.index 25#8) = some ⟨209#8, 163#8, 164#8⟩ ∧ (1#8 : Byte) ≠ 0#8 ∧
    f10.params.Legal ∧ f10.stk = [] ∧
    inBounds f10.cur.w.toNat f10.cur.h.toNat (coordValue 2#16) (coordValue 0#16) = true ∧
    rgbAt f10.pixmem f10.cur.w.toNat (coordValue 2#16) (coordValue 0#16) ≠
      ⟨209#8, 163#8, 164#8⟩ := by decide

/-- FillWithoutEffect: F3, a seed far out of bounds, and F11, the fill colour already there. -/
theorem witness_fill_without_effect :
    inBounds f10.cur.w.toNat f10.cur.h.toNat (coordValue 0x7FFF#16) (coordValue 0x8000#16) = false ∧
    rgbAt f10.pixmem f10.cur.w.toNat (coordValue 1#16) (coordValue 0#16) = ⟨255#8, 255#8, 255#8⟩ ∧
    resolveColour (.index 0#8) = some ⟨255#8, 255#8, 255#8⟩ := by decide

/-- FillNeverStops. -/
theorem witness_stack_fits : f10.params.maxPixels ≤ f10.params.stackDepth ∧ f10.stk = [] := by decide

/-- RepeatedFillIsNoOp: L1-2 in small. -/
theorem witness_fill_answers :
    (nextOf (exec (.fill 0#16 0#16 (.index 13#8)) f10)).isSome = true := by decide

/-- ChecksDiscardInOrder: each clause, at the ends of the index range. -/
theorem witness_checks_fail :
    configOk base.params base.cur.w.toNat base.cur.h.toNat = false ∧
    configOk f10.params f10.cur.w.toNat f10.cur.h.toNat = true ∧ 26 ≤ (26#8 : Byte).toNat ∧
    26 ≤ (255#8 : Byte).toNat ∧ (resolveColour (.index 25#8)).isSome = true ∧
    resolveColour (.index 26#8) = none := by decide

/-- CommandsLeaveTheRestAlone, CommandsStayInTheBuffer: each command answers a next state, and a CLEAR
changes a byte. -/
theorem witness_commands_answer :
    (nextOf (exec (.fill 0#16 0#16 (.index 13#8)) f10)).isSome = true ∧
    (nextOf (exec (.line 0#16 0#16 2#16 0#16 1#8 (.index 13#8)) f10)).isSome = true ∧
    (nextOf (exec (.clear (.index 13#8)) f10)).isSome = true ∧
    (nextOf (exec (.skip 0#8) f10)).isSome = true ∧
    (nextOf (exec (.clear (.index 13#8)) f10)).map (fun t => Memory.read t.pixmem 0) = some 0#8 ∧
    Memory.read f10.pixmem 0 = 255#8 := by decide

/-- BoxEmptyRemovesNothing: N8 in small, a stroke far off the buffer that does visit points. -/
theorem witness_box_empty :
    boxEmpty 10 10 (-20) (-20) (-19) (-20) (3#8 : Byte).toNat = true ∧
    (-20, -20) ∈ strokePoints (-20) (-20) (-19) (-20) 1 := by decide

/-- DotIsTheClippedDisc: both clauses. -/
theorem witness_dot : (4, 5) ∈ strokePoints 5 5 5 5 1 ∧ (6, 5) ∉ strokePoints 5 5 5 5 1 ∧
    (5, 5) ∈ strokePoints 5 5 5 5 0 := by decide

/-- OddWidthPaintsTheSame: widths 2 and 3, and the last pair. -/
theorem witness_width_pairs :
    (2#8 : Byte) ≠ 0#8 ∧ (2#8 : Byte).toNat % 2 = 0 ∧ (3#8 : Byte).toNat = (2#8 : Byte).toNat + 1 ∧
    (254#8 : Byte).toNat % 2 = 0 ∧ (255#8 : Byte).toNat = (254#8 : Byte).toNat + 1 ∧
    (nextOf (exec (.line 0#16 0#16 0#16 0#16 2#8 (.index 0#8)) f10)).isSome = true ∧
    (nextOf (exec (.line 0#16 0#16 0#16 0#16 3#8 (.index 0#8)) f10)).isSome = true := by decide

/-- BusErrorExactlyOnIllegalAccess: legal and illegal accesses at the ends of the regions. -/
theorem witness_access_bounds :
    (accessTarget Params.reference (memReadTxn 0x0FC#25 4)) = .register .unlisted ∧
    (accessTarget Params.reference (memReadTxn 0x100#25 4)) = .busError ∧
    (accessTarget Params.reference (memReadTxn 0x0FFFFFC#25 4)) = .busError ∧
    (accessTarget Params.reference (memReadTxn 0x13FFFFC#25 4)) = .aperture 0x3FFFFC 4 ∧
    (accessTarget Params.reference (memReadTxn 0x13FFFFF#25 1)) = .aperture 0x3FFFFF 1 ∧
    (accessTarget Params.reference ⟨false, 0x1000000#25, 3#2, 0#32⟩) = .busError := by decide

/-- HeldAccessWaits, HeldAccessIsPerformed: an aperture access, CFG_DIM, and one that is not held. -/
theorem witness_holds :
    accessTarget (running []).params (memReadTxn 0x1000000#25 4) = .aperture 0 4 ∧
    held (memReadTxn 0x1000000#25 4) (running [.host (memReadTxn 0x1000000#25 4)]) = true ∧
    held (memWriteTxn 0x00C#25 4 0#32) (running [.host (memWriteTxn 0x00C#25 4 0#32)]) = true ∧
    held (memReadTxn 0x014#25 4) (running [.host (memReadTxn 0x014#25 4)]) = false := by decide

/-- ReadOnlyRegistersIgnoreWrites: each range at its ends. -/
theorem witness_read_only_offsets :
    regAt 0x008 = .maxpix ∧ regAt 0x01C = .fillCnt ∧ regAt 0x024 = .unlisted ∧ regAt 0x02C = .unlisted ∧
    regAt 0x040 = .doorbell ∧ regAt 0x044 = .unlisted ∧ regAt 0x07C = .unlisted ∧
    regAt 0x080 = .palette 0 ∧ regAt 0x0E4 = .palette 25 ∧ regAt 0x0E8 = .unlisted ∧
    regAt 0x0FC = .unlisted := by decide

/-- ConstantRegistersRead, StatusWordLayout. -/
theorem witness_legal_parameters : base.params.Legal ∧ base.queue.length ≤ 255 := by decide

/-- DoorbellPushesOrDrops: room, and none (V15 with QDEPTH = 1). -/
theorem witness_doorbell :
    (running []).queue.length < (running []).params.qdepth ∧
    ({ running [] with params := { Params.reference with qdepth := 1 } } : State).queue.length =
      ({ running [] with params := { Params.reference with qdepth := 1 } } : State).params.qdepth := by
  decide

/-- ApertureWriteReadsBack: the last word, half and byte of PIXMEM. -/
theorem witness_aperture_end :
    (0x13FFFFC#25).toNat + 4 ≤ 0x1000000 + 4 * base.params.maxPixels ∧ (0x13FFFFC#25).toNat % 4 = 0 ∧
    (0x13FFFFE#25).toNat + 2 ≤ 0x1000000 + 4 * base.params.maxPixels ∧ (0x13FFFFE#25).toNat % 2 = 0 ∧
    (0x13FFFFF#25).toNat + 1 ≤ 0x1000000 + 4 * base.params.maxPixels := by decide

/-- PaintedPixelReadsAsItsWord. -/
theorem witness_last_pixel : base.params.Legal ∧ 1023 < 1024 ∧
    1024 * 1024 ≤ base.params.maxPixels := by decide

/-- TransactionsLeaveTheEngineAlone: a register access and an aperture access. -/
theorem witness_targets :
    accessTarget base.params (memWriteTxn 0x040#25 4 0#32) = .register .doorbell ∧
    accessTarget base.params (memWriteTxn 0x1000004#25 1 0#32) = .aperture 4 1 := by decide

/-- WaitEndsWhenDrained: each clause. -/
theorem witness_waits :
    drained (waiting true [] [.wait]) = true ∧ (running [.wait]).busy = true ∧
    engineEnabled (waiting true [clearPacket] [.wait]) = true ∧
    engineEnabled (waiting false [clearPacket] [.wait]) = false := by decide

/-- ResetKeepsPixmem: with and without a command to abandon. -/
theorem witness_resets :
    (running [.reset [2]]).inputs = .reset [2] :: [] ∧ (running [.reset [2]]).busy = true ∧
    (waiting true [] [.reset []]).inputs = .reset [] :: [] ∧
    (nextOf (exec (decodePacket (running []).cur.packet) (running []))).isSome = true := by decide

/-- InvariantHoldsAtReset. -/
theorem witness_power_up_memory :
    Params.reference.Legal ∧ Memory.wf [(0, 7#8), (0x3FFFFF, 1#8)] ∧
    ∀ c ∈ [((0 : Nat), (7#8 : Byte)), (0x3FFFFF, 1#8)], c.1 < 4 * Params.reference.maxPixels := by
  decide

/-- EveryStepKeepsTheInvariant, EveryStepKeepsTheFillCount, NoStepStops, ParametersNeverChange,
EventBitsAreSticky, PacketsRunInPushOrder: a state that keeps the invariant and steps, and one that
dispatches. -/
theorem witness_steps :
    (nextOf (step (running [.engine]))).isSome = true ∧
    (nextOf (step (waiting true [clearPacket] [.engine]))).isSome = true ∧
    (nextOf (step (waiting true [] [.host (memWriteTxn 0x040#25 4 0#32)]))).isSome = true := by decide

/-- EngineDrainsTheQueue: three steps to drain. -/
theorem witness_drain : (running []).run = true ∧ (running []).inputs = [] ∧
    stepsToDrain (running []) = 3 := by decide

/-- ReplayIsDeterministic: two states that differ past the buffer and in the counters. -/
theorem witness_same_replay :
    SameReplay (running []) { running [] with pixmem := [(2, 9#8), (77, 1#8)], fillCnt := 5#32 } :=
  ⟨rfl, rfl, rfl, rfl, rfl, rfl, rfl, by decide⟩

theorem witness_same_replay_inv :
    Inv { running [] with pixmem := [(2, 9#8), (77, 1#8)], fillCnt := 5#32 } :=
  ⟨by decide, by decide, by decide, by decide, rfl, fun _ => by decide, by decide⟩

/-- ReplayFromClearForgetsPixmem. -/
theorem witness_replay_from_clear :
    (waiting true [clearPacket] []).queue = clearPacket :: [] ∧
    decodePacket clearPacket = .clear (.index 0#8) ∧
    resolveColour (.index 0#8) = some ⟨255#8, 255#8, 255#8⟩ ∧
    configOk (waiting true [clearPacket] []).params (cfgW (waiting true [clearPacket] [])).toNat
      (cfgH (waiting true [clearPacket] [])).toNat = true := by decide

/-- IdleLatchIsUnobservable: a step that dispatches, and one that does not. -/
theorem witness_idle_steps : (waiting true [] []).busy = false ∧
    (nextOf (step (waiting true [] []))).isSome = true ∧
    (waiting true [clearPacket] []).busy = false ∧
    (nextOf (step (waiting true [clearPacket] []))).map (·.busy) = some true := by decide

end Sys2Proof.Tests
end

section
/-! PROOFS. The parameters are fixed for an instance (00_scope.md R7): what each kind of step does to them,
from the case lemma of that kind, and what they settle of the registers. -/

namespace Sys2Proof.Machine

/-- A host transaction leaves the parameters: of its writes, the register write alone could reach them. -/
@[simp] theorem transact_params (txn : Txn) (s : State) : (transact txn s).params = s.params := by
  rcases transact_cases txn s with
    ⟨_, hs⟩ | ⟨reg, _, ⟨_, hs⟩ | ⟨_, hs⟩⟩ | ⟨i, n, _, ⟨_, hs⟩ | ⟨_, hs⟩⟩ <;> rw [hs]
  case inr.inl.inl =>
    obtain ⟨-, -, -, -, -, -, hparams, -, -⟩ := writeReg_frame txn.wdata s reg
    exact hparams

@[simp] theorem resetStep_params (written : List Nat) (s : State) :
    (resetStep written s).params = s.params := rfl

theorem exec_params {i : Instr} {s t : State} (h : exec i s = .next t) : t.params = s.params := by
  rcases exec_next_cases h with
    ⟨code, _, rfl⟩ | ⟨op, _, rfl⟩ | ⟨x, y, co, _, rfl⟩ |
    ⟨x, y, co, c, tr, _, _, _, _, _, _, rfl⟩ | ⟨c, l, _, _, rfl⟩
  · exact recordError_params code s
  · exact countSkip_params s
  · exact setFillResult_params 0 s
  · exact setFillResult_params tr.n _
  · rfl

theorem engineStep_params {s t : State} (h : engineStep s = .next t) : t.params = s.params := by
  rcases engineStep_next h with ⟨_, u, hu, rfl⟩ | ⟨_, _, p, rest, _, rfl⟩ | ⟨_, _, rfl⟩
  · rw [finishCommand_params, exec_params hu]
  · exact latch_params p _
  · rfl

theorem step_params {s t : State} (h : step s = .next t) : t.params = s.params := by
  rcases step_next h with ⟨txn, rest, _, _, rfl⟩ | ⟨written, rest, _, rfl⟩ | ⟨ins, rfl⟩ | ⟨ins, he⟩
  · exact transact_params txn _
  · exact resetStep_params written _
  · exact pollStatus_params _
  · exact (engineStep_params he :)

/-- CAPS holds parameters only (R19). -/
theorem readReg_caps_congr {s t : State} (h : t.params = s.params) :
    readReg t .caps = readReg s .caps := by
  simp only [readReg, h]

/-- MAXPIX holds a parameter only (R20). -/
theorem readReg_maxpix_congr {s t : State} (h : t.params = s.params) :
    readReg t .maxpix = readReg s .maxpix := by
  simp only [readReg, h]

/-- Settles O54: every kind of step keeps the parameters, and the two registers read from them alone. -/
theorem parametersNeverChange : Obligations.ParametersNeverChange := by
  intro s t h
  have hparams : t.params = s.params := step_params h
  exact ⟨hparams, readReg_caps_congr hparams, readReg_maxpix_congr hparams⟩

end Sys2Proof.Machine
end

section
/-! PROOFS. Frames: what a command (40_dispatch.md R106) and a host transaction (20_memory.md R67) leave
alone, from the case lemma of each, and what of PIXMEM every command keeps. -/

namespace Sys2Proof.Machine

/-! ### Commands -/

/-- What no command changes (10_state.md R15, 40_dispatch.md R106). -/
structure CommandFrame (s t : State) : Prop where
  params : t.params = s.params
  cfgDim : t.cfgDim = s.cfgDim
  run : t.run = s.run
  busy : t.busy = s.busy
  done : t.events.done = s.events.done
  idle : t.events.idle = s.events.idle
  ovf : t.events.ovf = s.events.ovf
  irqEn : t.irqEn = s.irqEn
  cmd0 : t.cmd0 = s.cmd0
  cmd1 : t.cmd1 = s.cmd1
  cmd2 : t.cmd2 = s.cmd2
  cmd3 : t.cmd3 = s.cmd3
  queue : t.queue = s.queue
  cur : t.cur = s.cur
  bus : t.bus = s.bus
  inputs : t.inputs = s.inputs

theorem exec_frame {i : Instr} {s t : State} (h : exec i s = .next t) : CommandFrame s t := by
  rcases exec_next_cases h with
    ⟨code, _, rfl⟩ | ⟨op, _, rfl⟩ | ⟨x, y, co, _, rfl⟩ |
    ⟨x, y, co, c, tr, _, _, _, _, _, _, rfl⟩ | ⟨c, l, _, _, rfl⟩ <;> constructor <;> rfl

/-- Only a FILL reports a repainted count, and only a FILL uses STK (R30, R34, R42). -/
theorem exec_fillFlags {i : Instr} {s t : State} (h : exec i s = .next t)
    (hi : ∀ x y co, i ≠ .fill x y co) :
    t.changed = s.changed ∧ t.fillCnt = s.fillCnt ∧ t.stk = s.stk := by
  rcases exec_next_cases h with
    ⟨code, _, rfl⟩ | ⟨op, _, rfl⟩ | ⟨x, y, co, hfill, rfl⟩ |
    ⟨x, y, co, c, tr, hfill, _, _, _, _, _, rfl⟩ | ⟨c, l, _, _, rfl⟩
  · exact ⟨rfl, rfl, rfl⟩
  · exact ⟨rfl, rfl, rfl⟩
  · exact absurd hfill (hi x y co)
  · exact absurd hfill (hi x y co)
  · exact ⟨rfl, rfl, rfl⟩

/-- Only a skipped packet is counted (R35, R161). -/
theorem exec_skipFlags {i : Instr} {s t : State} (h : exec i s = .next t)
    (hi : ∀ op, i ≠ .skip op) : t.events.skip = s.events.skip ∧ t.skipCnt = s.skipCnt := by
  rcases exec_next_cases h with
    ⟨code, _, rfl⟩ | ⟨op, hskip, rfl⟩ | ⟨x, y, co, _, rfl⟩ |
    ⟨x, y, co, c, tr, _, _, _, _, _, _, rfl⟩ | ⟨c, l, _, _, rfl⟩
  · exact ⟨rfl, rfl⟩
  · exact absurd hskip (hi op)
  · exact ⟨rfl, rfl⟩
  · exact ⟨rfl, rfl⟩
  · exact ⟨rfl, rfl⟩

/-- A command leaves ERR and ERRCODE, or is discarded: it then sets both and draws nothing (R171). -/
theorem exec_error {i : Instr} {s t : State} (h : exec i s = .next t) :
    (t.events.err = s.events.err ∧ t.errCode = s.errCode) ∨
      (t.events.err = true ∧ t.errCode ≠ .none ∧ t.pixmem = s.pixmem) := by
  rcases exec_next_cases h with
    ⟨code, hcode, rfl⟩ | ⟨op, _, rfl⟩ | ⟨x, y, co, _, rfl⟩ |
    ⟨x, y, co, c, tr, _, _, _, _, _, _, rfl⟩ | ⟨c, l, _, _, rfl⟩
  · exact .inr ⟨rfl, hcode, rfl⟩
  · exact .inl ⟨rfl, rfl⟩
  · exact .inl ⟨rfl, rfl⟩
  · exact .inl ⟨rfl, rfl⟩
  · exact .inl ⟨rfl, rfl⟩

/-- Settles O19: the frame of every command, and the three groups of flags that some commands change. -/
theorem commandsLeaveTheRestAlone : Obligations.CommandsLeaveTheRestAlone := by
  intro i s t h
  have f := exec_frame h
  exact ⟨f.params, f.cfgDim, f.run, f.busy, f.done, f.idle, f.ovf, f.irqEn, f.cmd0, f.cmd1, f.cmd2,
    f.cmd3, f.queue, f.cur, f.bus, f.inputs, exec_fillFlags h, exec_skipFlags h, exec_error h⟩

/-- A property of PIXMEM that each paint of an in-bounds pixel keeps is kept by a clipped paint (R59). -/
theorem paintClipped_induct {w h : Nat} {c : Colour} {Q : Memory → Prop}
    (hQ : ∀ m u v, Q m → inBounds w h u v = true → Q (pixWrite m w u v c))
    (l : List (Int × Int)) {m : Memory} (hm : Q m) : Q (paintClipped w h c l m) := by
  induction l generalizing m with
  | nil => exact hm
  | cons p rest ih =>
    obtain ⟨u, v⟩ := p
    rw [paintClipped]
    refine ih ?_
    split
    · exact hQ m u v hm (by assumption)
    · exact hm

/-- A property of PIXMEM that each paint of an in-bounds pixel keeps, under a legal geometry, is kept by
every command (R59, R60, R100). -/
theorem exec_memory {i : Instr} {s t : State} {Q : Memory → Prop}
    (hQ : configOk s.params s.cur.w.toNat s.cur.h.toNat = true → ∀ c m u v, Q m →
      inBounds s.cur.w.toNat s.cur.h.toNat u v = true → Q (pixWrite m s.cur.w.toNat u v c))
    (hs : Q s.pixmem) (h : exec i s = .next t) : Q t.pixmem := by
  rcases exec_next_cases h with
    ⟨code, _, rfl⟩ | ⟨op, _, rfl⟩ | ⟨x, y, co, _, rfl⟩ |
    ⟨x, y, co, c, tr, _, hok, _, hb, _, htr, rfl⟩ | ⟨c, l, _, hok, rfl⟩
  · exact hs
  · exact hs
  · exact hs
  · exact fillTraverse_memory (hQ hok c) hs hb htr
  · exact paintClipped_induct (hQ hok c) l hs

/-! ### Host transactions -/

/-- A register write appends to Q at most (R36, R95): no packet already there is touched. -/
theorem writeReg_queue (v : Word) (s : State) (reg : HostReg) :
    ∃ more, (writeReg v s reg).queue = s.queue ++ more := by
  cases reg
  case doorbell =>
    rcases pushStaged_cases s with ⟨_, hp⟩ | ⟨_, hp⟩
    · exact ⟨[stagedPacket s], by rw [writeReg, hp]⟩
    · exact ⟨[], by rw [writeReg, hp, List.append_nil]⟩
  all_goals exact ⟨[], (List.append_nil s.queue).symm⟩

/-- What no host transaction changes (10_state.md R17, R41, 20_memory.md R67), beside the parameters. -/
structure TransactFrame (s u : State) : Prop where
  cur : u.cur = s.cur
  stk : u.stk = s.stk
  busy : u.busy = s.busy
  changed : u.changed = s.changed
  fillCnt : u.fillCnt = s.fillCnt
  inputs : u.inputs = s.inputs
  queue : ∃ more, u.queue = s.queue ++ more

/-- Of what a transaction can do, a register write alone could reach the engine's fields. -/
theorem transact_frame (txn : Txn) (s : State) : TransactFrame s (transact txn s) := by
  have unchanged : ∀ m r, TransactFrame s { s with pixmem := m, bus := r } := fun m r =>
    ⟨rfl, rfl, rfl, rfl, rfl, rfl, [], (List.append_nil s.queue).symm⟩
  rcases transact_cases txn s with
    ⟨_, hs⟩ | ⟨reg, _, ⟨_, hs⟩ | ⟨_, hs⟩⟩ | ⟨i, n, _, ⟨_, hs⟩ | ⟨_, hs⟩⟩ <;> rw [hs]
  case inr.inl.inl =>
    obtain ⟨-, hcur, hstk, hbusy, hchanged, hcnt, -, hinputs, -⟩ := writeReg_frame txn.wdata s reg
    exact ⟨hcur, hstk, hbusy, hchanged, hcnt, hinputs, writeReg_queue txn.wdata s reg⟩
  all_goals exact unchanged _ _

/-- PIXMEM moves on an aperture access alone (R51, R61). -/
theorem transact_pixmem {txn : Txn} {s : State}
    (ht : ∀ i n, accessTarget s.params txn ≠ .aperture i n) : (transact txn s).pixmem = s.pixmem := by
  rcases transact_cases txn s with
    ⟨_, hs⟩ | ⟨reg, _, ⟨_, hs⟩ | ⟨_, hs⟩⟩ | ⟨i, n, ha, _⟩
  · rw [hs]
  · rw [hs]
    obtain ⟨hpixmem, -⟩ := writeReg_frame txn.wdata s reg
    exact hpixmem
  · rw [hs]
  · exact absurd ha (ht i n)

/-- An aperture access moves PIXMEM and the response alone (R61). -/
theorem transact_aperture {txn : Txn} {s : State} {i n : Nat}
    (ht : accessTarget s.params txn = .aperture i n) :
    transact txn s = { s with pixmem := (transact txn s).pixmem, bus := (transact txn s).bus } := by
  unfold transact
  rw [ht]
  cases txn.we <;> rfl

/-- Settles O42: the frame of every transaction, and the two kinds of access. -/
theorem transactionsLeaveTheEngineAlone : Obligations.TransactionsLeaveTheEngineAlone := by
  intro txn s
  have f := transact_frame txn s
  exact ⟨transact_params txn s, f.cur, f.stk, f.busy, f.changed, f.fillCnt, f.inputs, f.queue,
    transact_pixmem, fun _ _ => transact_aperture⟩

end Sys2Proof.Machine
end

section
/-! PROOFS. The invariant `Inv` across each kind of step (10_state.md R26, R31, R40 to R42, 20_memory.md
R50). -/

namespace Sys2Proof.Machine

/-! ### PIXMEM -/

/-- The two clauses of `Inv` about PIXMEM: canonical form, and inside its bytes (R50). -/
def PixmemFits (p : Params) (m : Memory) : Prop :=
  Memory.wf m ∧ ∀ c ∈ m, c.1 < 4 * p.maxPixels

theorem Inv.pixmemFits {s : State} (hs : Inv s) : PixmemFits s.params s.pixmem :=
  ⟨hs.pixmemCanonical, hs.pixmemInside⟩

/-- A command draws inside PIXMEM: a legal geometry has no more than MAX_PIXELS pixels (R60, R101). -/
theorem exec_pixmemFits {i : Instr} {s t : State} (hs : PixmemFits s.params s.pixmem)
    (h : exec i s = .next t) : PixmemFits s.params t.pixmem := by
  refine exec_memory (Q := PixmemFits s.params) (fun hok c m u v hm hb => ?_) hs h
  obtain ⟨-, -, -, -, hcap⟩ := configOk_iff.mp hok
  obtain ⟨hwf, hin⟩ := hm
  exact ⟨wf_pixWrite hwf _ u v c, inside_pixWrite hin hb (Nat.mul_le_mul_left 4 hcap) c⟩

/-- A byte written back from a memory that fits lands inside it: past the end every byte reads as
unlisted, and storing that lists nothing. -/
theorem Memory.inside_write_read {m new : Memory} {n : Nat} (hm : ∀ c ∈ m, c.1 < n)
    (hnew : ∀ c ∈ new, c.1 < n) (a : Nat) : ∀ c ∈ Memory.write m a (Memory.read new a), c.1 < n := by
  by_cases ha : a < n
  · exact Memory.inside_write hm ha _
  · rw [Memory.read_outside hnew (Nat.le_of_not_lt ha), Memory.write, if_pos rfl]
    exact fun c hc => hm c (List.mem_filter.mp hc).1

theorem pixmemFits_abandonedMemory {p : Params} {old new : Memory} (hold : PixmemFits p old)
    (hnew : PixmemFits p new) (written : List Nat) :
    PixmemFits p (abandonedMemory old new written) := by
  refine ⟨wf_abandonedMemory hold.1 new written, ?_⟩
  induction written with
  | nil => exact hold.2
  | cons a rest ih => exact Memory.inside_write_read ih hnew.2 a

/-- PIXMEM fits after a reset, whatever an abandoned command had written (R198). -/
theorem pixmemFits_memoryAcrossReset {s : State} (hs : PixmemFits s.params s.pixmem)
    (written : List Nat) : PixmemFits s.params (memoryAcrossReset written s) := by
  unfold memoryAcrossReset
  split
  · split
    case h_1 t ht => exact pixmemFits_abandonedMemory hs (exec_pixmemFits hs ht) written
    all_goals exact hs
  · exact hs

/-! ### ERR and ERRCODE -/

/-- The clause of `Inv` about ERRCODE: it is 0 exactly when ERR = 0 (R26). -/
def ErrCodeAgrees (s : State) : Prop := s.events.err = false ↔ s.errCode = .none

/-- A discard sets both, and every other command leaves both (R171). -/
theorem exec_errCodeAgrees {i : Instr} {s t : State} (hs : ErrCodeAgrees s)
    (h : exec i s = .next t) : ErrCodeAgrees t := by
  rcases exec_error h with ⟨herr, hcode⟩ | ⟨herr, hcode, _⟩
  · rw [ErrCodeAgrees, herr, hcode]
    exact hs
  · simp [ErrCodeAgrees, herr, hcode]

/-- A write to STATUS that clears ERR clears ERRCODE with it (R26, R32). -/
theorem writeStatus_errCodeAgrees {s : State} (hs : ErrCodeAgrees s) (v : Word) :
    ErrCodeAgrees (writeStatus v s) := by
  change (s.events.err && !v.getLsbD 2) = false ↔ (if v.getLsbD 2 then .none else s.errCode) = .none
  cases v.getLsbD 2
  · simpa [ErrCodeAgrees] using hs
  · simp

/-! ### Host transactions -/

/-- The invariant says nothing of the response or of the inputs to come. -/
theorem Inv.withBusInputs {s : State} (hs : Inv s) (r : Response) (ins : List Input) :
    Inv { s with bus := r, inputs := ins } :=
  { hs with }

/-- A DOORBELL write never pushes past QDEPTH (R95, R96). -/
theorem Inv.pushStaged {s : State} (hs : Inv s) : Inv (pushStaged s) := by
  rcases pushStaged_cases s with ⟨hroom, hp⟩ | ⟨_, hp⟩ <;> rw [hp]
  · refine { hs with queueBound := ?_ }
    simpa using hroom
  · exact { hs with }

/-- A register write keeps the invariant, when it does not move CFG_DIM under a running command: R56
holds such a write. -/
theorem Inv.writeReg {s : State} (hs : Inv s) (v : Word) {reg : HostReg}
    (hreg : s.busy = true → reg ≠ .cfgDim) : Inv (writeReg v s reg) := by
  cases reg
  case cfgDim => exact { hs with geometryLatched := fun hb => absurd rfl (hreg hb) }
  case status => exact { hs with errCodeAgrees := writeStatus_errCodeAgrees hs.errCodeAgrees v }
  case doorbell => exact hs.pushStaged
  all_goals exact { hs with }

/-- An access to CFG_DIM while a command runs is held (R56). -/
theorem target_ne_cfgDim_of_not_held {txn : Txn} {s : State} (hh : held txn s = false)
    (hb : s.busy = true) : accessTarget s.params txn ≠ .register .cfgDim := by
  intro ha
  simp [held, hb, ha] at hh

theorem Inv.transact {txn : Txn} {s : State} (hs : Inv s) (hh : held txn s = false) :
    Inv (transact txn s) := by
  rcases transact_cases txn s with
    ⟨_, ht⟩ | ⟨reg, ha, ⟨_, ht⟩ | ⟨_, ht⟩⟩ | ⟨i, n, ha, ⟨_, ht⟩ | ⟨_, ht⟩⟩ <;> rw [ht]
  case inr.inl.inl =>
    have hreg : s.busy = true → reg ≠ .cfgDim := fun hb he =>
      target_ne_cfgDim_of_not_held hh hb (he ▸ ha)
    exact (hs.writeReg txn.wdata hreg).withBusInputs .written _
  case inr.inr.inl =>
    obtain ⟨-, -, hin⟩ := accessTarget_aperture ha
    exact { hs with
      pixmemCanonical := wf_writeLanes hs.pixmemCanonical i n txn.wdata
      pixmemInside := inside_writeLanes hs.pixmemInside hin txn.wdata }
  all_goals exact hs.withBusInputs _ s.inputs

/-! ### The engine and a reset -/

/-- A completed command keeps the invariant; BUSY is then 0 and STK empty (R99, R104). -/
theorem Inv.finishCommand {i : Instr} {s t : State} (hs : Inv s) (h : exec i s = .next t) :
    Inv (finishCommand t) := by
  have f := exec_frame h
  obtain ⟨hwf, hin⟩ := exec_pixmemFits hs.pixmemFits h
  exact {
    paramsLegal := f.params ▸ hs.paramsLegal
    pixmemCanonical := hwf
    pixmemInside := by rw [finishCommand_params, f.params]; exact hin
    queueBound := by simpa [f.params, f.queue] using hs.queueBound
    stkEmpty := rfl
    geometryLatched := fun hb => nomatch hb
    errCodeAgrees := (exec_errCodeAgrees hs.errCodeAgrees h :) }

/-- A dispatch takes one packet from Q and latches the geometry that CFG_DIM has then (R98). -/
theorem Inv.latch {s : State} {p : Packet} {rest : List Packet} (hs : Inv s)
    (hq : s.queue = p :: rest) : Inv (latch p { s with queue := rest }) := by
  have hlen : rest.length ≤ s.params.qdepth := by
    have := hs.queueBound
    rw [hq, List.length_cons] at this
    omega
  exact { hs with queueBound := hlen, stkEmpty := rfl, geometryLatched := fun _ => ⟨rfl, rfl⟩ }

theorem Inv.engineStep {s t : State} (hs : Inv s) (h : engineStep s = .next t) : Inv t := by
  have hbus : Inv { s with bus := .notReady } := hs.withBusInputs .notReady s.inputs
  rcases engineStep_next h with ⟨_, u, hu, rfl⟩ | ⟨_, _, p, rest, hq, rfl⟩ | ⟨_, _, rfl⟩
  · exact hbus.finishCommand hu
  · exact hbus.latch hq
  · exact hbus

theorem Inv.resetStep {s : State} (hs : Inv s) (written : List Nat) : Inv (resetStep written s) := by
  obtain ⟨hwf, hin⟩ := pixmemFits_memoryAcrossReset hs.pixmemFits written
  exact {
    paramsLegal := hs.paramsLegal
    pixmemCanonical := hwf
    pixmemInside := hin
    queueBound := Nat.zero_le _
    stkEmpty := rfl
    geometryLatched := fun hb => nomatch hb
    errCodeAgrees := by simp [Machine.resetStep, Events.none] }

/-- Settles O47: each kind of step keeps the invariant, from the case lemma of a step. -/
theorem everyStepKeepsTheInvariant : Obligations.EveryStepKeepsTheInvariant := by
  intro s t hs h
  have hins : ∀ ins, Inv { s with inputs := ins } := fun ins => hs.withBusInputs s.bus ins
  rcases step_next h with
    ⟨txn, rest, _, hh, rfl⟩ | ⟨written, rest, _, rfl⟩ | ⟨ins, rfl⟩ | ⟨ins, he⟩
  · exact (hins rest).transact hh
  · exact (hins rest).resetStep written
  · exact hs.withBusInputs _ ins
  · exact (hins ins).engineStep he

end Sys2Proof.Machine
end

section
/-! PROOFS. FILLCNT and CHANGED (10_state.md R30, R34) across a step: a FILL repaints each pixel of the
buffer at most once (41_fill.md R118, R123). -/

namespace Sys2Proof.Machine

/-! ### A traversal counts distinct pixels -/

theorem length_bufferPixels (w h : Nat) : (bufferPixels w h).length = w * h := by
  simp [bufferPixels, Nat.mul_comm]

/-- `n` counts a set of in-bounds pixels that no longer show the target colour (R118, R123). -/
def CountsPainted (j : FillJob) (t : Traversal) : Prop :=
  ∃ painted : Finset (Int × Int), painted.card = t.n ∧
    ∀ p ∈ painted, inBounds j.w j.h p.1 p.2 = true ∧ rgbAt t.mem j.w p.1 p.2 ≠ j.target

theorem CountsPainted.start (j : FillJob) (m : Memory) (stk : List (Int × Int)) :
    CountsPainted j ⟨m, stk, 0⟩ :=
  ⟨∅, rfl, by simp⟩

/-- Painting a pixel that still shows the target colour adds it to the set: it was not there before. -/
theorem CountsPainted.paint {j : FillJob} {t : Traversal} {u v : Int} (hj : j.colour ≠ j.target)
    (ht : CountsPainted j t) (hm : fillMatches j t.mem u v = true) (stk : List (Int × Int)) :
    CountsPainted j ⟨pixWrite t.mem j.w u v j.colour, stk, t.n + 1⟩ := by
  obtain ⟨painted, hcard, hpainted⟩ := ht
  obtain ⟨hb, htarget⟩ := fillMatches_iff.mp hm
  have hnew : (u, v) ∉ painted := fun hmem => (hpainted _ hmem).2 htarget
  refine ⟨insert (u, v) painted, by rw [Finset.card_insert_of_notMem hnew, hcard], fun p hp => ?_⟩
  rcases Finset.mem_insert.mp hp with rfl | hp
  · refine ⟨hb, ?_⟩
    rw [(pixelIs_pixWrite t.mem j.w u v j.colour).1]
    exact hj
  · obtain ⟨hpb, hpt⟩ := hpainted p hp
    have hother : ¬ (p.1 = u ∧ p.2 = v) := fun ⟨hu, hv⟩ => hnew (by rwa [← hu, ← hv])
    refine ⟨hpb, ?_⟩
    rw [(pixel_pixWrite_other hb hpb hother).1]
    exact hpt

/-- The counted pixels are distinct pixels of the buffer, so there are no more than W x H. -/
theorem CountsPainted.le {j : FillJob} {t : Traversal} (ht : CountsPainted j t) : t.n ≤ j.w * j.h := by
  obtain ⟨painted, hcard, hpainted⟩ := ht
  have hsub : painted ⊆ (bufferPixels j.w j.h).toFinset := fun p hp =>
    List.mem_toFinset.mpr (mem_bufferPixels.mpr (hpainted p hp).1)
  calc t.n = painted.card := hcard.symm
    _ ≤ (bufferPixels j.w j.h).toFinset.card := Finset.card_le_card hsub
    _ ≤ (bufferPixels j.w j.h).length := List.toFinset_card_le _
    _ = j.w * j.h := length_bufferPixels j.w j.h

/-- A traversal from a pixel of the target colour repaints no more than W x H pixels. -/
theorem fillTraverse_count_le {j : FillJob} {x y : Int} {m : Memory} {stk : List (Int × Int)}
    {t : Traversal} (hj : j.colour ≠ j.target) (hseed : fillMatches j m x y = true)
    (h : fillTraverse j x y m stk = .ok t) : t.n ≤ j.w * j.h :=
  (fillTraverse_induct (P := CountsPainted j)
    (fun _ _ _ ht hm => ht.paint hj hm _)
    (fun _ _ _ ht hm _ => ht.paint hj hm _)
    (fun _ _ _ ht _ => ht)
    ((CountsPainted.start j m stk).paint hj hseed _) h).le

/-! ### The counters across a step -/

/-- A count within MAX_PIXELS fits FILLCNT, and is 0 exactly when CHANGED is (R34, R118). -/
theorem countInv_setFillResult {s : State} {n : Nat} (hp : s.params.Legal)
    (hn : n ≤ s.params.maxPixels) : CountInv (setFillResult n s) := by
  obtain ⟨-, -, -, -, hmax, -, -, -⟩ := hp
  have hfits : n < 2 ^ 32 := by omega
  have hcnt : (BitVec.ofNat 32 n).toNat = n := by rw [BitVec.toNat_ofNat, Nat.mod_eq_of_lt hfits]
  refine ⟨by simpa [hcnt] using hn, ?_⟩
  rw [setFillResult_changed, setFillResult_fillCnt, decide_eq_true_iff, ne_eq,
    ← BitVec.toNat_inj, hcnt]
  simp [Nat.one_le_iff_ne_zero]

/-- The two counters and the parameters decide `CountInv`. -/
theorem CountInv.congr {s t : State} (hs : CountInv s) (hparams : t.params = s.params)
    (hchanged : t.changed = s.changed) (hcnt : t.fillCnt = s.fillCnt) : CountInv t :=
  ⟨by rw [hcnt, hparams]; exact hs.fillCntBound, by rw [hchanged, hcnt]; exact hs.changedAgrees⟩

/-- A FILL that draws counts within MAX_PIXELS; every other command leaves the counters. -/
theorem CountInv.exec {i : Instr} {s t : State} (hs : CountInv s) (hp : s.params.Legal)
    (h : exec i s = .next t) : CountInv t := by
  rcases exec_next_cases h with
    ⟨code, _, rfl⟩ | ⟨op, _, rfl⟩ | ⟨x, y, co, _, rfl⟩ |
    ⟨x, y, co, c, tr, _, hok, _, hb, hne, htr, rfl⟩ | ⟨c, l, _, _, rfl⟩
  · exact hs.congr rfl rfl rfl
  · exact hs.congr rfl rfl rfl
  · exact countInv_setFillResult hp (Nat.zero_le _)
  · have hcount : tr.n ≤ s.cur.w.toNat * s.cur.h.toNat :=
      fillTraverse_count_le (Ne.symm hne) (fillMatches_iff.mpr ⟨hb, rfl⟩) htr
    obtain ⟨-, -, -, -, hcap⟩ := configOk_iff.mp hok
    exact countInv_setFillResult hp (hcount.trans hcap)
  · exact hs.congr rfl rfl rfl

theorem CountInv.transact {s : State} (hs : CountInv s) (txn : Txn) : CountInv (transact txn s) :=
  have f := transact_frame txn s
  hs.congr (transact_params txn s) f.changed f.fillCnt

theorem CountInv.engineStep {s t : State} (hs : CountInv s) (hp : s.params.Legal)
    (h : engineStep s = .next t) : CountInv t := by
  have hbus : CountInv { s with bus := .notReady } := hs.congr rfl rfl rfl
  rcases engineStep_next h with ⟨_, u, hu, rfl⟩ | ⟨_, _, p, rest, _, rfl⟩ | ⟨_, _, rfl⟩
  · exact (hbus.exec hp hu).congr rfl rfl rfl
  · exact hs.congr rfl rfl rfl
  · exact hbus

/-- A reset clears both counters (R196). -/
theorem countInv_resetStep (written : List Nat) (s : State) : CountInv (resetStep written s) :=
  ⟨Nat.zero_le _, by simp [resetStep]⟩

/-- Settles O48: each kind of step keeps the two counters in agreement and within MAX_PIXELS. -/
theorem everyStepKeepsTheFillCount : Obligations.EveryStepKeepsTheFillCount := by
  intro s t hinv hs h
  have hins : ∀ ins, CountInv { s with inputs := ins } := fun _ => hs.congr rfl rfl rfl
  rcases step_next h with
    ⟨txn, rest, _, _, rfl⟩ | ⟨written, rest, _, rfl⟩ | ⟨ins, rfl⟩ | ⟨ins, he⟩
  · exact (hins rest).transact txn
  · exact countInv_resetStep written _
  · exact hs.congr rfl rfl rfl
  · exact (hins ins).engineStep hinv.paramsLegal he

end Sys2Proof.Machine
end

section
/-! PROOFS. The event bits across a step (10_state.md R25 to R29, R32), and the latch CUR while no command
runs (R41, R44, 70_reset_and_hazards.md R197). -/

namespace Sys2Proof.Machine

/-! ### Events only rise -/

/-- Every event bit that is 1 in `e` is 1 in `e'`. -/
def Events.Kept (e e' : Events) : Prop :=
  (e.done = true → e'.done = true) ∧ (e.err = true → e'.err = true) ∧
  (e.skip = true → e'.skip = true) ∧ (e.idle = true → e'.idle = true) ∧
  (e.ovf = true → e'.ovf = true)

theorem Events.Kept.refl (e : Events) : e.Kept e := ⟨id, id, id, id, id⟩

theorem Events.Kept.trans {e e' e'' : Events} (h : e.Kept e') (h' : e'.Kept e'') : e.Kept e'' :=
  have ⟨hdone, herr, hskip, hidle, hovf⟩ := h
  have ⟨hdone', herr', hskip', hidle', hovf'⟩ := h'
  ⟨hdone' ∘ hdone, herr' ∘ herr, hskip' ∘ hskip, hidle' ∘ hidle, hovf' ∘ hovf⟩

/-- A command clears no event: it can set ERR or SKIP (R171, R161). -/
theorem exec_eventsKept {i : Instr} {s t : State} (h : exec i s = .next t) :
    s.events.Kept t.events := by
  rcases exec_next_cases h with
    ⟨code, _, rfl⟩ | ⟨op, _, rfl⟩ | ⟨x, y, co, _, rfl⟩ |
    ⟨x, y, co, c, tr, _, _, _, _, _, _, rfl⟩ | ⟨c, l, _, _, rfl⟩
  · exact ⟨id, fun _ => rfl, id, id, id⟩
  · exact ⟨id, id, fun _ => rfl, id, id⟩
  · exact .refl s.events
  · exact .refl s.events
  · exact .refl s.events

/-- A completion sets DONE, and IDLE when Q is empty (R104). -/
theorem finishCommand_eventsKept (s : State) : s.events.Kept (finishCommand s).events :=
  ⟨fun _ => rfl, id, id, fun hidle => by simp [hidle], id⟩

theorem engineStep_eventsKept {s t : State} (h : engineStep s = .next t) :
    s.events.Kept t.events := by
  rcases engineStep_next h with ⟨_, u, hu, rfl⟩ | ⟨_, _, p, rest, _, rfl⟩ | ⟨_, _, rfl⟩
  · exact (exec_eventsKept hu).trans (finishCommand_eventsKept u)
  · exact .refl s.events
  · exact .refl s.events

/-- Of the register writes, that to STATUS alone clears events; DOORBELL can set OVF (R32, R96). -/
theorem writeReg_eventsKept (v : Word) (s : State) {reg : HostReg} (hreg : reg ≠ .status) :
    s.events.Kept (writeReg v s reg).events := by
  cases reg
  case status => exact absurd rfl hreg
  case doorbell =>
    rcases pushStaged_cases s with ⟨_, hp⟩ | ⟨_, hp⟩ <;> rw [writeReg, hp]
    · exact .refl s.events
    · exact ⟨id, id, id, id, fun _ => rfl⟩
  all_goals exact .refl s.events

theorem transact_eventsKept {txn : Txn} {s : State}
    (htxn : ¬ (txn.we = true ∧ accessTarget s.params txn = .register .status)) :
    s.events.Kept (transact txn s).events := by
  rcases transact_cases txn s with
    ⟨_, ht⟩ | ⟨reg, ha, ⟨hwe, ht⟩ | ⟨_, ht⟩⟩ | ⟨i, n, _, ⟨_, ht⟩ | ⟨_, ht⟩⟩ <;> rw [ht]
  case inr.inl.inl =>
    exact writeReg_eventsKept txn.wdata s fun hreg => htxn ⟨hwe, hreg ▸ ha⟩
  all_goals exact .refl s.events

/-- Settles O53: each kind of step but a reset and a write to STATUS keeps the events. -/
theorem eventBitsAreSticky : Obligations.EventBitsAreSticky := by
  intro s t h hreset hstatus
  change s.events.Kept t.events
  rcases step_next h with
    ⟨txn, rest, hi, _, rfl⟩ | ⟨written, rest, hi, rfl⟩ | ⟨ins, rfl⟩ | ⟨ins, he⟩
  · exact transact_eventsKept (s := { s with inputs := rest }) (hstatus txn rest hi)
  · exact absurd hi (hreset written rest)
  · exact .refl s.events
  · exact (engineStep_eventsKept he :)

/-! ### The idle latch -/

/-- `s` with `c` in CUR. -/
def withCur (c : Current) (s : State) : State := { s with cur := c }

@[simp] theorem withCur_inputs (c : Current) (s : State) : (withCur c s).inputs = s.inputs := rfl

/-- The step answered `t` from one state and `r` from a state that differs in CUR alone: `r` is `t` but for
CUR, and with a command running not even that is different. -/
def CurUnobserved (r : Result) (t : State) : Prop :=
  ∃ d, r = .next (withCur d t) ∧ (t.busy = true → d = t.cur)

/-- A step that overwrites CUR, as a dispatch and a reset do. -/
theorem CurUnobserved.of_overwritten {r : Result} {t : State} (h : r = .next t) :
    CurUnobserved r t :=
  ⟨t.cur, h, fun _ => rfl⟩

/-- A step that carries CUR along and ends idle. -/
theorem CurUnobserved.of_idle {r : Result} {t : State} {c : Current} (hb : t.busy = false)
    (h : r = .next (withCur c t)) : CurUnobserved r t :=
  ⟨c, h, fun hbusy => by simp [hb] at hbusy⟩

theorem pushStaged_withCur (c : Current) (s : State) :
    pushStaged (withCur c s) = withCur c (pushStaged s) := by
  by_cases hroom : s.queue.length < s.params.qdepth
  · simp only [pushStaged, withCur, hroom, if_true]
    rfl
  · simp only [pushStaged, withCur, hroom, if_false]

theorem writeReg_withCur (v : Word) (c : Current) (s : State) (reg : HostReg) :
    writeReg v (withCur c s) reg = withCur c (writeReg v s reg) := by
  cases reg
  case doorbell => exact pushStaged_withCur c s
  all_goals rfl

theorem readReg_withCur (c : Current) (s : State) (reg : HostReg) :
    readReg (withCur c s) reg = readReg s reg := by
  cases reg <;> rfl

/-- The host has no way to CUR: a transaction carries it along (R17, R41). -/
theorem transact_withCur (txn : Txn) (c : Current) (s : State) :
    transact txn (withCur c s) = withCur c (transact txn s) := by
  have htarget : accessTarget (withCur c s).params txn = accessTarget s.params txn := rfl
  unfold transact
  rw [htarget]
  cases accessTarget s.params txn with
  | busError => rfl
  | register reg =>
    cases txn.we
    · simp only [readReg_withCur]
      rfl
    · simp only [writeReg_withCur]
      rfl
  | aperture i n => cases txn.we <;> rfl

/-- The dispatch step, written out (R97, R98). -/
theorem engineStep_of_dispatch {s : State} {p : Packet} {rest : List Packet} (hb : s.busy = false)
    (hrun : s.run = true) (hq : s.queue = p :: rest) :
    engineStep s = .next (latch p { s with queue := rest, bus := .notReady }) := by
  simp [engineStep, dispatchEnabled, dispatchHead, hb, hrun, hq]

/-- The turn of an engine that has no step (60_exceptions.md R187). -/
theorem engineStep_of_idle {s : State} (hb : s.busy = false) (hd : dispatchEnabled s = false) :
    engineStep s = .next { s with bus := .notReady } := by
  simp [engineStep, hb, hd]

/-- The idle engine does not read CUR: a dispatch overwrites it, and else it stays (R97, R98). -/
theorem engineStep_curUnobserved {s t : State} (hb : s.busy = false) (h : engineStep s = .next t)
    (c : Current) : CurUnobserved (engineStep (withCur c s)) t := by
  rcases engineStep_next h with ⟨hbusy, _⟩ | ⟨_, hrun, p, rest, hq, rfl⟩ | ⟨_, hd, rfl⟩
  · simp [hb] at hbusy
  · exact .of_overwritten (engineStep_of_dispatch (s := withCur c s) hb hrun hq)
  · exact .of_idle (c := c) hb (engineStep_of_idle (s := withCur c s) hb hd)

/-- WAIT reads STATUS and nothing else (30_encoding.md R89). -/
theorem waitStep_curUnobserved {rest : List Input} {s t : State} (hb : s.busy = false)
    (h : waitStep rest s = .next t) (c : Current) :
    CurUnobserved (waitStep rest (withCur c s)) t := by
  have hdrained : drained (withCur c s) = drained s := rfl
  have henabled : engineEnabled (withCur c s) = engineEnabled s := rfl
  unfold waitStep at h ⊢
  rw [hdrained, henabled]
  split_ifs at h ⊢
  · cases h
    exact .of_idle (c := c) hb rfl
  · exact engineStep_curUnobserved hb h c
  · cases h
    exact .of_idle (c := c) hb rfl

/-- No transaction is held while no command runs (R56). -/
theorem held_of_idle {s : State} (hb : s.busy = false) (txn : Txn) : held txn s = false := by
  simp [held, hb]

/-- A reset of an idle block keeps PIXMEM, and CUR has no part in it (R197, R198). -/
theorem resetStep_of_idle {s : State} (hb : s.busy = false) (written : List Nat) :
    resetStep written s = State.powerUp s.params s.pixmem s.inputs := by
  simp [resetStep, memoryAcrossReset, hb]

/-- Settles O55: by the input that decides the step, none of which leads an idle block to read CUR. -/
theorem idleLatchIsUnobservable : Obligations.IdleLatchIsUnobservable := by
  intro s t c hb h
  change CurUnobserved (step (withCur c s)) t
  unfold step nextStep at h ⊢
  rw [withCur_inputs]
  split at h
  · exact engineStep_curUnobserved hb h c
  · rename_i txn rest _
    rw [held_of_idle hb, if_neg Bool.false_ne_true] at h
    rw [held_of_idle (s := withCur c s) hb, if_neg Bool.false_ne_true]
    cases h
    have hidle : (transact txn { s with inputs := rest }).busy = false :=
      (transact_frame txn _).busy.trans hb
    exact .of_idle hidle (congrArg _ (transact_withCur txn c { s with inputs := rest }))
  · rename_i rest _
    exact engineStep_curUnobserved (s := { s with inputs := rest }) hb h c
  · exact waitStep_curUnobserved hb h c
  · rename_i written rest _
    cases h
    rw [resetStep_of_idle (s := { s with inputs := rest }) hb]
    exact .of_overwritten
      (congrArg _ (resetStep_of_idle (s := { withCur c s with inputs := rest }) hb written))

end Sys2Proof.Machine
end

section
/-! PROOFS. The registers as the host reads and writes them (10_state.md R17 to R39): which register an
offset names, the layout of the words, and what a write changes. -/

namespace Sys2Proof.Machine

/-! ### Fields of a word -/

/-- Bit 0 of a word alone: what CTRL stores (R22). -/
theorem ctrlField (v : Word) : v &&& 0x1#32 = 0#31 ++ flag (v.getLsbD 0) := by
  rw [BitVec.and_one_eq_setWidth_ofBool_getLsbD, BitVec.setWidth_eq_append (by decide)]
  rfl

/-- Bits 5 to 1 of a word alone: what IRQ_EN stores (R33) and STATUS clears (R32). -/
theorem eventsField (v : Word) : v &&& 0x3E#32 = 0#26 ++ v.extractLsb' 1 5 ++ 0#1 := by
  have hsplit : v = v.extractLsb' 6 26 ++ v.extractLsb' 1 5 ++ v.extractLsb' 0 1 := by
    rw [BitVec.extractLsb'_append_extractLsb'_eq_extractLsb' (show 6 = 1 + 5 from rfl),
      BitVec.extractLsb'_append_extractLsb'_eq_extractLsb' (show 1 = 0 + 1 from rfl)]
    exact BitVec.extractLsb'_eq_self.symm
  have hmask : 0x3E#32 = 0#26 ++ BitVec.allOnes 5 ++ 0#1 := rfl
  calc v &&& 0x3E#32
      = (v.extractLsb' 6 26 ++ v.extractLsb' 1 5 ++ v.extractLsb' 0 1) &&&
          (0#26 ++ BitVec.allOnes 5 ++ 0#1) := by rw [← hsplit, hmask]
    _ = 0#26 ++ v.extractLsb' 1 5 ++ 0#1 := by
        simp only [BitVec.and_append, BitVec.and_zero, BitVec.and_allOnes]

/-- The five events stored from a word are its bits 5 to 1 (R33). -/
theorem bits_ofWord (v : Word) : (Events.ofWord v).bits = v.extractLsb' 1 5 := by
  refine BitVec.eq_of_getLsbD_eq fun i hi => ?_
  simp only [Events.bits, Events.ofWord, flag, BitVec.getLsbD_append, BitVec.getLsbD_extractLsb']
  interval_cases i <;> simp

theorem flag_and_not (a b : Bool) : flag (a && !b) = flag a &&& ~~~ flag b := by
  cases a <;> cases b <;> rfl

/-- Clearing bits works field by field. -/
theorem append_and_not {m n : Nat} (x x' : BitVec m) (y y' : BitVec n) :
    (x ++ y) &&& ~~~(x' ++ y') = (x &&& ~~~x') ++ (y &&& ~~~y') := by
  rw [BitVec.not_append, BitVec.and_append]

/-- The events left by a write to STATUS, as bits: those that the word does not clear (R32). -/
theorem bits_clearedBy (e : Events) (v : Word) :
    (e.clearedBy v).bits = e.bits &&& ~~~ v.extractLsb' 1 5 := by
  rw [← bits_ofWord]
  simp only [Events.bits, Events.clearedBy, Events.ofWord, flag_and_not]
  iterate 4 rw [append_and_not]

/-! ### Register accesses at an offset -/

/-- A register reads the same whatever the bus answered last. -/
theorem readReg_withBus (s : State) (r : Response) (reg : HostReg) :
    readReg { s with bus := r } reg = readReg s reg := by
  cases reg <;> rfl

/-- A read of the register just written returns what the write left in it. -/
theorem bus_read_after_write {off : BitVec 25} (hr : off.toNat < 0x100) (ha : off.toNat % 4 = 0)
    (v : Word) (s : State) :
    (transact (memReadTxn off 4) (transact (memWriteTxn off 4 v) s)).bus =
      .readData (readReg (writeReg v s (regAt off.toNat)) (regAt off.toNat)) := by
  rw [transact_memRead_register hr ha, transact_memWrite_register hr ha]
  exact congrArg Response.readData (readReg_withBus _ _ _)

/-- Settles O33: each register read back after a write, from the bits that it stores. -/
theorem writableRegistersReadBack : Obligations.WritableRegistersReadBack := by
  intro v s
  have back (off : BitVec 25) (hr : off.toNat < 0x100) (ha : off.toNat % 4 = 0) :=
    bus_read_after_write hr ha v s
  have hctrl : 0#31 ++ flag (v.getLsbD 0) = v &&& 0x1#32 := (ctrlField v).symm
  have hirq : 0#26 ++ (Events.ofWord v).bits ++ 0#1 = v &&& 0x3E#32 := by
    rw [bits_ofWord, eventsField]
  exact ⟨back 0x00C#25 (by decide) (by decide),
    (back 0x010#25 (by decide) (by decide)).trans (congrArg _ hctrl),
    (back 0x018#25 (by decide) (by decide)).trans (congrArg _ hirq),
    back 0x020#25 (by decide) (by decide), back 0x030#25 (by decide) (by decide),
    back 0x034#25 (by decide) (by decide), back 0x038#25 (by decide) (by decide),
    back 0x03C#25 (by decide) (by decide)⟩

/-- Settles O58: the write to the register at each of the eight offsets. -/
theorem registerWritesChangeOnlyTheirField : Obligations.RegisterWritesChangeOnlyTheirField := by
  intro v s
  have write (off : BitVec 25) (hr : off.toNat < 0x100) (ha : off.toNat % 4 = 0) :=
    transact_memWrite_register hr ha v s
  exact ⟨write 0x00C#25 (by decide) (by decide), write 0x010#25 (by decide) (by decide),
    write 0x018#25 (by decide) (by decide), write 0x020#25 (by decide) (by decide),
    write 0x030#25 (by decide) (by decide), write 0x034#25 (by decide) (by decide),
    write 0x038#25 (by decide) (by decide), write 0x03C#25 (by decide) (by decide)⟩

/-! ### Read-only and unlisted offsets -/

/-- The offsets that R17's table does not list. -/
theorem regAt_unlisted {off : Nat} (ha : off % 4 = 0)
    (h : (0x024 ≤ off ∧ off ≤ 0x02C) ∨ (0x044 ≤ off ∧ off ≤ 0x07C) ∨ 0x0E8 ≤ off) :
    regAt off = .unlisted := by
  unfold regAt
  iterate 15 rw [if_neg (by omega)]

/-- The offsets of the 26 palette registers (R39). -/
theorem regAt_palette {off : Nat} (hlo : 0x080 ≤ off) (hhi : off < 0x0E8) :
    regAt off = .palette ((off - 0x080) / 4) := by
  unfold regAt
  iterate 14 rw [if_neg (by omega)]
  rw [if_pos ⟨hlo, hhi⟩]

/-- A write at a read-only or unlisted offset of the window does nothing (R17). -/
theorem writeReg_readOnly {off : Nat} (ha : off % 4 = 0)
    (h : off ≤ 0x008 ∨ off = 0x01C ∨ (0x024 ≤ off ∧ off ≤ 0x02C) ∨ 0x044 ≤ off) (v : Word)
    (s : State) : writeReg v s (regAt off) = s := by
  have hoff : off = 0x000 ∨ off = 0x004 ∨ off = 0x008 ∨ off = 0x01C ∨
      ((0x024 ≤ off ∧ off ≤ 0x02C) ∨ (0x044 ≤ off ∧ off ≤ 0x07C) ∨ 0x0E8 ≤ off) ∨
      (0x080 ≤ off ∧ off < 0x0E8) := by omega
  rcases hoff with rfl | rfl | rfl | rfl | hunlisted | ⟨hlo, hhi⟩
  · rfl
  · rfl
  · rfl
  · rfl
  · rw [regAt_unlisted ha hunlisted]
    rfl
  · rw [regAt_palette hlo hhi]
    rfl

/-- DOORBELL and every unlisted offset read 0 (R17, R37). -/
theorem readReg_zero {off : Nat} (ha : off % 4 = 0)
    (h : (0x024 ≤ off ∧ off ≤ 0x02C) ∨ (0x040 ≤ off ∧ off ≤ 0x07C) ∨ 0x0E8 ≤ off) (s : State) :
    readReg s (regAt off) = 0#32 := by
  by_cases hdoorbell : off = 0x040
  · subst hdoorbell
    rfl
  · rw [regAt_unlisted ha (by omega)]
    rfl

/-- Settles O34: no write reaches a read-only or unlisted offset, and an unlisted one reads 0. -/
theorem readOnlyRegistersIgnoreWrites : Obligations.ReadOnlyRegistersIgnoreWrites := by
  intro off v s hr ha
  constructor
  · intro h
    rw [transact_memWrite_register hr ha, writeReg_readOnly ha h]
  · intro h
    rw [transact_memRead_register hr ha, readReg_zero ha h]

/-! ### Constants -/

/-- The number in two joined fields. -/
theorem toNat_append_eq_add {m n : Nat} (x : BitVec m) (y : BitVec n) :
    (x ++ y).toNat = x.toNat * 2 ^ n + y.toNat := by
  rw [BitVec.toNat_append, ← Nat.shiftLeft_add_eq_or_of_lt y.isLt, Nat.shiftLeft_eq]

/-- With legal parameters QDEPTH and MAX_DIM fit their fields of CAPS (R19). -/
theorem toNat_capsWord {p : Params} (hp : p.Legal) :
    (capsWord p).toNat = p.maxDim + 2 ^ 16 * p.qdepth := by
  obtain ⟨-, -, hdim, -, -, -, hdepth, -⟩ := hp
  rw [capsWord, toNat_append_eq_add, toNat_append_eq_add, BitVec.toNat_ofNat, BitVec.toNat_ofNat,
    BitVec.toNat_ofNat]
  omega

/-- PALETTE[i] is read at `0x080 + 4i` (R39). -/
theorem bus_read_palette {i : Nat} (hi : i < 26) (s : State) :
    (transact (memReadTxn (BitVec.ofNat 25 (0x080 + 4 * i)) 4) s).bus = .readData (paletteReg i) := by
  have hoff : (BitVec.ofNat 25 (0x080 + 4 * i)).toNat = 0x080 + 4 * i := by
    rw [BitVec.toNat_ofNat]
    omega
  have hindex : (0x080 + 4 * i - 0x080) / 4 = i := by omega
  rw [transact_memRead_register (by omega) (by omega), hoff, regAt_palette (by omega) (by omega),
    hindex]
  rfl

/-- Settles O35: the value of each constant register; the palette words are those of the ROM (R38). -/
theorem constantRegistersRead : Obligations.ConstantRegistersRead := by
  intro s hp
  have read (off : BitVec 25) (hr : off.toNat < 0x100) (ha : off.toNat % 4 = 0) :=
    congrArg State.bus (transact_memRead_register hr ha s)
  have hmaxpix : (BitVec.ofNat 32 s.params.maxPixels).toNat = s.params.maxPixels := by
    obtain ⟨-, -, -, -, hmax, -, -, -⟩ := hp
    rw [BitVec.toNat_ofNat]
    omega
  have hpalette : (List.range 26).map (fun i =>
        (transact (memReadTxn (BitVec.ofNat 25 (0x080 + 4 * i)) 4) s).bus) =
      (List.range 26).map fun i => .readData (paletteReg i) :=
    List.map_congr_left fun i hi => bus_read_palette (List.mem_range.mp hi) s
  exact ⟨read 0x000#25 (by decide) (by decide),
    ⟨capsWord s.params, read 0x004#25 (by decide) (by decide), toNat_capsWord hp⟩,
    ⟨_, read 0x008#25 (by decide) (by decide), hmaxpix⟩, hpalette.trans (by decide)⟩

/-! ### STATUS -/

/-- The single-bit fields of STATUS (R23). -/
theorem statusWord_flags (s : State) :
    (statusWord s).getLsbD 0 = s.busy ∧ (statusWord s).getLsbD 1 = s.events.done ∧
    (statusWord s).getLsbD 2 = s.events.err ∧ (statusWord s).getLsbD 3 = s.events.skip ∧
    (statusWord s).getLsbD 4 = s.events.idle ∧ (statusWord s).getLsbD 5 = s.events.ovf ∧
    (statusWord s).getLsbD 6 = s.changed ∧ (statusWord s).getLsbD 7 = false := by
  simp only [statusWord, Events.bits, flag, BitVec.getLsbD_append]
  simp

/-- Above its low byte STATUS holds ERRCODE and QCOUNT (R23). -/
theorem statusWord_extract_high (s : State) {start : Nat} (h : 8 ≤ start) (len : Nat) :
    (statusWord s).extractLsb' start len =
      (0#8 ++ qcount s ++ 0#4 ++ s.errCode.bits).extractLsb' (start - 8) len := by
  unfold statusWord
  iterate 4 rw [BitVec.extractLsb'_append_eq_of_le (by omega)]
  rfl

/-- The wider fields of STATUS: ERRCODE, QCOUNT and the reserved bits about them (R23). -/
theorem statusWord_fields (s : State) :
    (statusWord s).extractLsb' 8 4 = s.errCode.bits ∧ (statusWord s).extractLsb' 12 4 = 0#4 ∧
    (statusWord s).extractLsb' 16 8 = qcount s ∧ (statusWord s).extractLsb' 24 8 = 0#8 := by
  refine ⟨?_, ?_, ?_, ?_⟩ <;> rw [statusWord_extract_high s (by decide)]
  · exact BitVec.extractLsb'_append_eq_right
  · rw [BitVec.extractLsb'_append_eq_of_le (by decide)]
    exact BitVec.extractLsb'_append_eq_right
  · iterate 2 rw [BitVec.extractLsb'_append_eq_of_le (by decide)]
    exact BitVec.extractLsb'_append_eq_right
  · iterate 2 rw [BitVec.extractLsb'_append_eq_of_le (by decide)]
    exact BitVec.extractLsb'_append_eq_left

/-- A queue of at most 255 packets fits QCOUNT (R31). -/
theorem toNat_qcount {s : State} (hq : s.queue.length ≤ 255) : (qcount s).toNat = s.queue.length := by
  rw [qcount, BitVec.toNat_ofNat]
  omega

/-- Settles O36: the fields of the word, and the three reads. -/
theorem statusWordLayout : Obligations.StatusWordLayout := by
  intro s
  have read (off : BitVec 25) (hr : off.toNat < 0x100) (ha : off.toNat % 4 = 0) :=
    transact_memRead_register hr ha s
  obtain ⟨hbusy, hdone, herr, hskip, hidle, hovf, hchanged, hreserved⟩ := statusWord_flags s
  obtain ⟨hcode, hreserved', hcount, hreserved''⟩ := statusWord_fields s
  exact ⟨hbusy, hdone, herr, hskip, hidle, hovf, hchanged, hreserved, hcode, hreserved',
    fun hq => (congrArg BitVec.toNat hcount).trans (toNat_qcount hq), hreserved'', rfl, rfl, rfl, rfl,
    read 0x014#25 (by decide) (by decide), read 0x01C#25 (by decide) (by decide),
    read 0x020#25 (by decide) (by decide)⟩

/-- ERRCODE after a write to STATUS, as bits: a write that clears ERR clears all four (R26, R32). -/
theorem errCode_bits_cleared (code : ErrCode) (clear : Bool) :
    (if clear then ErrCode.none else code).bits =
      code.bits &&& ~~~ (if clear then 0xF#4 else 0#4) := by
  cases clear
  · exact (BitVec.and_allOnes (x := code.bits)).symm
  · exact (BitVec.and_zero (x := code.bits)).symm

/-- The bits that a write of `v` to STATUS clears, in STATUS's own layout (R23, R32). -/
theorem clearMask_layout (v : Word) (clear : Bool) :
    (v &&& 0x3E#32) ||| (if clear then 0xF00#32 else 0#32) =
      0#8 ++ 0#8 ++ 0#4 ++ (if clear then 0xF#4 else 0#4) ++ 0#1 ++ 0#1 ++ v.extractLsb' 1 5 ++ 0#1 := by
  have hcode : (if clear then 0xF00#32 else 0#32) =
      0#8 ++ 0#8 ++ 0#4 ++ (if clear then 0xF#4 else 0#4) ++ 0#1 ++ 0#1 ++ 0#5 ++ 0#1 := by
    cases clear <;> rfl
  have hevents : v &&& 0x3E#32 =
      0#8 ++ 0#8 ++ 0#4 ++ 0#4 ++ 0#1 ++ 0#1 ++ v.extractLsb' 1 5 ++ 0#1 := eventsField v
  rw [hcode, hevents]
  iterate 7 rw [BitVec.or_append]
  simp only [BitVec.or_zero, BitVec.zero_or]

/-- STATUS after a write of `v` to it: the bits of `v` and, with ERR's, those of ERRCODE are cleared. -/
theorem statusWord_writeStatus (v : Word) (s : State) :
    statusWord (writeStatus v s) = statusWord s &&&
      ~~~((v &&& 0x3E#32) ||| (if v.getLsbD 2 then 0xF00#32 else 0#32)) := by
  have hq : qcount (writeStatus v s) = qcount s := rfl
  rw [clearMask_layout, statusWord, statusWord, hq, writeStatus_errCode, writeStatus_events,
    writeStatus_changed, writeStatus_busy, errCode_bits_cleared, bits_clearedBy]
  iterate 7 rw [append_and_not]
  simp only [BitVec.not_zero, BitVec.and_allOnes]

/-- Settles O37: the word after the write, and the two fields that the write reaches. -/
theorem statusWriteOneToClear : Obligations.StatusWriteOneToClear := by
  intro v s
  rw [transact_memWrite_register (off := 0x014#25) (by decide) (by decide)]
  exact ⟨statusWord_writeStatus v s, rfl⟩

end Sys2Proof.Machine
end

section
/-! PROOFS. No command faults in a state whose STK is empty and large enough (41_fill.md R121, R122): STK
never holds more than the pixels painted and not yet popped, and those are distinct pixels of the buffer. -/

namespace Sys2Proof.Machine

/-! ### The work stack of a traversal -/

/-- After `pops` pops STK holds at most the painted pixels that have not been popped: every push paints. -/
def StackCounted (j : FillJob) (pops : Nat) (t : Traversal) : Prop :=
  CountsPainted j t ∧ t.stk.length + pops ≤ t.n

theorem StackCounted.le {j : FillJob} {pops : Nat} {t : Traversal} (ht : StackCounted j pops t) :
    t.stk.length + pops ≤ j.w * j.h :=
  ht.2.trans ht.1.le

theorem StackCounted.paint {j : FillJob} {pops : Nat} {t : Traversal} {u v : Int}
    (hj : j.colour ≠ j.target) (ht : StackCounted j pops t)
    (hm : fillMatches j t.mem u v = true) : StackCounted j pops (fillPaint j u v t) :=
  ⟨ht.1.paint hj hm t.stk, Nat.le_succ_of_le ht.2⟩

theorem StackCounted.push {j : FillJob} {pops : Nat} {t : Traversal} {u v : Int}
    (hj : j.colour ≠ j.target) (ht : StackCounted j pops t)
    (hm : fillMatches j t.mem u v = true) :
    StackCounted j pops ⟨pixWrite t.mem j.w u v j.colour, (u, v) :: t.stk, t.n + 1⟩ := by
  have hlen := ht.2
  exact ⟨ht.1.paint hj hm _, by simp only [List.length_cons]; omega⟩

theorem StackCounted.pop {j : FillJob} {pops : Nat} {t : Traversal} {p : Int × Int}
    {rest : List (Int × Int)} (ht : StackCounted j pops t) (hs : t.stk = p :: rest) :
    StackCounted j (pops + 1) { t with stk := rest } := by
  have hlen := ht.2
  rw [hs, List.length_cons] at hlen
  exact ⟨ht.1, by simp only; omega⟩

/-- A push comes with the paint of a further pixel of the buffer, so STK has room for it (R121). -/
theorem fillVisit_answers {j : FillJob} {pops : Nat} {t : Traversal} (hj : j.colour ≠ j.target)
    (hroom : j.w * j.h ≤ j.depth) (ht : StackCounted j pops t) (u v : Int) :
    ∃ t', fillVisit j u v t = .ok t' := by
  unfold fillVisit
  split
  case isTrue hm =>
    rcases fillPush_cases j u v t with ⟨_, he⟩ | ⟨hfull, _⟩
    · exact ⟨_, he⟩
    · have hle := (ht.push hj hm).le
      simp only [List.length_cons] at hle
      omega
  case isFalse => exact ⟨t, rfl⟩

theorem scanSpan_answers {j : FillJob} {pops : Nat} (hj : j.colour ≠ j.target)
    (hroom : j.w * j.h ≤ j.depth) (y : Int) (len : Nat) (u : Int) {t : Traversal}
    (ht : StackCounted j pops t) : ∃ t', scanSpan j y len u t = .ok t' := by
  have visit_keeps {u v : Int} {t t' : Traversal} (ht : StackCounted j pops t)
      (h : fillVisit j u v t = .ok t') : StackCounted j pops t' :=
    fillVisit_induct (fun _ _ _ ht hm _ => ht.push hj hm) ht h
  induction len generalizing u t with
  | zero => exact ⟨t, rfl⟩
  | succ len ih =>
    obtain ⟨above, habove⟩ := fillVisit_answers hj hroom ht u (y - 1)
    have hkeep := visit_keeps ht habove
    obtain ⟨below, hbelow⟩ := fillVisit_answers hj hroom hkeep u (y + 1)
    simp only [scanSpan, habove, hbelow]
    exact ih (u + 1) (visit_keeps hkeep hbelow)

/-- One turn of the loop finds room for every push, and leaves STK within the count. -/
theorem fillPopped_answers {j : FillJob} {pops : Nat} {t : Traversal} (hj : j.colour ≠ j.target)
    (hroom : j.w * j.h ≤ j.depth) (ht : StackCounted j pops t) (px py : Int) :
    ∃ t', fillPopped j px py t = .ok t' ∧ StackCounted j pops t' := by
  have extend_keeps := extendSpan_induct (P := StackCounted j pops) fun _ _ _ ht hm => ht.paint hj hm
  obtain ⟨t', h⟩ : ∃ t', fillPopped j px py t = .ok t' :=
    scanSpan_answers hj hroom _ _ _ (extend_keeps _ _ _ _ _ (extend_keeps _ _ _ _ _ ht))
  exact ⟨t', h, fillPopped_induct (fun _ _ _ ht hm => ht.paint hj hm)
    (fun _ _ _ ht hm _ => ht.push hj hm) ht h⟩

/-- W x H pops are enough (R122): each popped pixel is one of the painted ones. -/
theorem fillLoop_answers {j : FillJob} (hj : j.colour ≠ j.target) (hroom : j.w * j.h ≤ j.depth)
    {fuel pops : Nat} (hfuel : j.w * j.h ≤ pops + fuel) {t : Traversal}
    (ht : StackCounted j pops t) : ∃ t', fillLoop j fuel t = .ok t' := by
  induction fuel generalizing pops t with
  | zero =>
    cases hs : t.stk with
    | nil => exact ⟨t, by simp [fillLoop, hs]⟩
    | cons p rest =>
      have hle := ht.le
      rw [hs, List.length_cons] at hle
      omega
  | succ fuel ih =>
    cases hs : t.stk with
    | nil => exact ⟨t, by simp [fillLoop, hs]⟩
    | cons p rest =>
      obtain ⟨t', hpopped, ht'⟩ := fillPopped_answers hj hroom (ht.pop hs) p.1 p.2
      obtain ⟨t'', hloop⟩ := ih (by omega) ht'
      exact ⟨t'', by simp [fillLoop, hs, hpopped, hloop]⟩

/-- A traversal from a pixel of the target colour, on an empty STK with room for W x H entries, ends. -/
theorem fillTraverse_answers {j : FillJob} {x y : Int} {m : Memory} (hj : j.colour ≠ j.target)
    (hroom : j.w * j.h ≤ j.depth) (hseed : fillMatches j m x y = true) :
    ∃ t, fillTraverse j x y m [] = .ok t := by
  have hstart : StackCounted j 0 ⟨m, [], 0⟩ := ⟨.start j m [], le_rfl⟩
  have hpushed := hstart.push hj hseed
  rcases fillPush_cases j x y ⟨m, [], 0⟩ with ⟨_, he⟩ | ⟨hfull, _⟩
  · obtain ⟨t, ht⟩ := fillLoop_answers hj hroom (by omega : j.w * j.h ≤ 0 + j.w * j.h) hpushed
    exact ⟨t, by simp only [fillTraverse, he]; exact ht⟩
  · have hle := hpushed.le
    simp only [List.length_cons, List.length_nil] at hle hfull
    omega

/-! ### Every command answers -/

/-- The checks answer, if what comes after them does (R100). -/
theorem withChecks_answers (co : ColourOperand) {s : State} {draw : Colour → Result}
    (h : configOk s.params s.cur.w.toNat s.cur.h.toNat = true → ∀ c, ∃ t, draw c = .next t) :
    ∃ t, withChecks co s draw = .next t := by
  rcases withChecks_cases co s draw with ⟨_, he⟩ | ⟨_, _, he⟩ | ⟨c, hok, _, he⟩
  · exact ⟨_, he⟩
  · exact ⟨_, he⟩
  · rw [he]
    exact h hok c

theorem fillAt_answers {s : State} (hroom : s.cur.w.toNat * s.cur.h.toNat ≤ s.params.stackDepth)
    (hstk : s.stk = []) (x y : Int) (c : Colour) : ∃ t, fillAt x y c s = .next t := by
  rcases fillAt_cases x y c s with ⟨_, he⟩ | ⟨hb, hne, ⟨e, herr, _⟩ | ⟨t, _, he⟩⟩
  · exact ⟨_, he⟩
  · obtain ⟨t, ht⟩ := fillTraverse_answers (j := fillJob x y c s) (m := s.pixmem) (Ne.symm hne) hroom
      (fillMatches_iff.mpr ⟨hb, rfl⟩)
    rw [hstk, ht] at herr
    cases herr
  · exact ⟨_, he⟩

/-- With STK empty and room for MAX_PIXELS entries, every command answers a next state (R121, R122). -/
theorem exec_answers (i : Instr) {s : State} (hroom : s.params.maxPixels ≤ s.params.stackDepth)
    (hstk : s.stk = []) : ∃ t, exec i s = .next t := by
  cases i with
  | fill x y co =>
    refine withChecks_answers co fun hok c => ?_
    obtain ⟨-, -, -, -, hcap⟩ := configOk_iff.mp hok
    exact fillAt_answers (hcap.trans hroom) hstk _ _ c
  | line x1 y1 x2 y2 width co =>
    refine withChecks_answers co fun _ c => ?_
    split
    · exact ⟨_, rfl⟩
    · exact ⟨_, rfl⟩
  | clear co => exact withChecks_answers co fun _ c => ⟨_, rfl⟩
  | skip op => exact ⟨_, rfl⟩

theorem complete_of_exec {s t : State} (h : exec (decodePacket s.cur.packet) s = .next t) :
    complete s = .next (finishCommand t) := by
  simp [complete, h]

/-- A running command completes in the engine's next turn (R99). -/
theorem engineStep_answers {s : State} (hs : Inv s) (hb : s.busy = true) :
    ∃ t, engineStep s = .next t := by
  obtain ⟨-, -, -, -, -, -, -, hroom⟩ := hs.paramsLegal
  obtain ⟨t, ht⟩ := exec_answers (decodePacket s.cur.packet) (s := { s with bus := .notReady })
    hroom hs.stkEmpty
  exact ⟨finishCommand t, by rw [engineStep, if_pos hb]; exact complete_of_exec ht⟩

end Sys2Proof.Machine
end

section
/-! PROOFS. The hold of host accesses (20_memory.md R56), the engine's turns and Q (40_dispatch.md R106),
and the bytes a command can change (20_memory.md R59, R60). -/

namespace Sys2Proof.Machine

/-! ### The hold -/

/-- What R56 holds: a legal access to the aperture or to CFG_DIM, while a command runs. -/
theorem held_iff {txn : Txn} {s : State} :
    held txn s = true ↔ s.busy = true ∧
      ((∃ i n, accessTarget s.params txn = .aperture i n) ∨
        accessTarget s.params txn = .register .cfgDim) := by
  unfold held
  cases accessTarget s.params txn with
  | register reg => cases reg <;> simp
  | aperture i n => simp
  | busError => simp

/-- A held transaction leaves the step to the engine, and stays (R56). -/
theorem step_of_held {txn : Txn} {rest : List Input} {s : State} (hi : s.inputs = .host txn :: rest)
    (hh : held txn s = true) : step s = engineStep s := by
  simp [step, nextStep, hi, hh]

/-- A transaction that is not held is performed at once (R62). -/
theorem step_of_not_held {txn : Txn} {rest : List Input} {s : State}
    (hi : s.inputs = .host txn :: rest) (hh : held txn s = false) :
    step s = .next (transact txn { s with inputs := rest }) := by
  simp [step, nextStep, hi, hh]

theorem step_of_engine {rest : List Input} {s : State} (hi : s.inputs = .engine :: rest) :
    step s = engineStep { s with inputs := rest } := by
  simp [step, nextStep, hi]

/-- What a busy engine's turn leaves: the command is completed, and no transaction and no packet with it
(R99, R104). -/
theorem engineStep_of_busy {s t : State} (hb : s.busy = true) (h : engineStep s = .next t) :
    t.busy = false ∧ t.bus = .notReady ∧ t.inputs = s.inputs ∧ t.queue = s.queue := by
  rcases engineStep_next h with ⟨_, u, hu, rfl⟩ | ⟨hidle, _⟩ | ⟨hidle, _⟩
  · have f := exec_frame hu
    exact ⟨rfl, f.bus, f.inputs, f.queue⟩
  · simp [hb] at hidle
  · simp [hb] at hidle

/-- Settles O30: by `held_iff`, the two kinds of target R56 names and every other one. -/
theorem heldAccessWaits : Obligations.HeldAccessWaits := by
  intro txn rest s hb hi
  constructor
  · intro htarget
    have hstep : step s = engineStep s := step_of_held hi (held_iff.mpr ⟨hb, htarget⟩)
    have hturn : step { s with inputs := .engine :: s.inputs } = engineStep s := step_of_engine rfl
    refine ⟨hstep.trans hturn.symm, fun u hu => ?_⟩
    obtain ⟨hbusy, hbus, hinputs, _⟩ := engineStep_of_busy hb (hstep.symm.trans hu)
    exact ⟨hinputs, hbus, hbusy⟩
  · intro hap hcfg
    refine step_of_not_held hi (Bool.eq_false_iff.mpr fun hh => ?_)
    obtain ⟨_, ⟨i, n, ha⟩ | hc⟩ := held_iff.mp hh
    · exact hap i n ha
    · exact hcfg hc

/-- Settles O31: the running command completes, since no command faults under the invariant, and an idle
engine holds nothing. -/
theorem heldAccessIsPerformed : Obligations.HeldAccessIsPerformed := by
  intro txn rest s hs hi hh
  obtain ⟨hb, _⟩ := held_iff.mp hh
  obtain ⟨u, hu⟩ := engineStep_answers hs hb
  obtain ⟨hbusy, _, hinputs, _⟩ := engineStep_of_busy hb hu
  have hfree : held txn u = false := held_of_idle hbusy txn
  exact ⟨u, _, (step_of_held hi hh).trans hu, hfree,
    step_of_not_held (hinputs.trans hi) hfree, rfl⟩

/-! ### Q along the engine's turns -/

/-- Settles O56: a completion leaves Q, a dispatch takes its head into CUR, and else Q stays. -/
theorem packetsRunInPushOrder : Obligations.PacketsRunInPushOrder := by
  intro s t rest hi h
  rw [step_of_engine hi] at h
  constructor
  · intro hb
    obtain ⟨hbusy, _, _, hqueue⟩ := engineStep_of_busy (s := { s with inputs := rest }) hb h
    exact ⟨hqueue, hbusy⟩
  · intro hb
    rcases engineStep_next h with ⟨hbusy, _⟩ | ⟨_, _, p, more, hq, rfl⟩ | ⟨_, _, rfl⟩
    · simp [hb] at hbusy
    · exact .inr ⟨hq, rfl⟩
    · exact .inl ⟨rfl, hb⟩

/-! ### The bytes a command changes -/

/-- Every byte of `m` that differs from `old` is one of an in-bounds pixel that is opaque in `m`. -/
def ChangedOpaque (w h : Nat) (old m : Memory) : Prop :=
  ∀ a, Memory.read m a ≠ Memory.read old a →
    ∃ u v, inBounds w h u v = true ∧ ByteOf w u v a ∧ alphaAt m w u v = 255#8

theorem ChangedOpaque.refl (w h : Nat) (m : Memory) : ChangedOpaque w h m m :=
  fun _ hne => absurd rfl hne

/-- Painting a pixel leaves it opaque and every other pixel as it was (R57). -/
theorem ChangedOpaque.pixWrite {w h : Nat} {old m : Memory} {x y : Int}
    (hm : ChangedOpaque w h old m) (hb : inBounds w h x y = true) (c : Colour) :
    ChangedOpaque w h old (pixWrite m w x y c) := by
  intro a hne
  have hpainted : alphaAt (Machine.pixWrite m w x y c) w x y = 255#8 := (pixelIs_pixWrite m w x y c).2
  by_cases ha : ByteOf w x y a
  · exact ⟨x, y, hb, ha, hpainted⟩
  · rw [read_pixWrite_other ha] at hne
    obtain ⟨u, v, hbu, hau, halpha⟩ := hm a hne
    have hother : ¬ (u = x ∧ v = y) := fun ⟨hu, hv⟩ => ha (hu ▸ hv ▸ hau)
    exact ⟨u, v, hbu, hau, (pixel_pixWrite_other hb hbu hother).2.trans halpha⟩

/-- Settles O20: every paint of every command keeps `ChangedOpaque`, and an in-bounds pixel lies below
4WH. -/
theorem commandsStayInTheBuffer : Obligations.CommandsStayInTheBuffer := by
  intro i s t h a hne
  have hopaque : ChangedOpaque s.cur.w.toNat s.cur.h.toNat s.pixmem t.pixmem :=
    exec_memory (fun _ c _ _ _ hm hb => hm.pixWrite hb c) (.refl _ _ _) h
  obtain ⟨u, v, hb, ha, halpha⟩ := hopaque a hne
  exact ⟨ha.lt hb, u, v, hb, ha, halpha⟩

end Sys2Proof.Machine
end

section
/-! PROOFS. Host transactions on the bus: which accesses are legal (20_memory.md R51, R54), and the byte
lanes of the aperture (R53, R70). -/

namespace Sys2Proof.Machine

/-! ### Legal accesses -/

theorem sizeBytes_eq_some {size : BitVec 2} {n : Nat} :
    sizeBytes size = some n ↔
      (size = 0#2 ∧ n = 1) ∨ (size = 1#2 ∧ n = 2) ∨ (size = 2#2 ∧ n = 4) := by
  unfold sizeBytes
  split_ifs with h0 h1 h2 <;> simp [*, eq_comm]

/-- An access reaches a register when it is a 32-bit access at an aligned offset of the window (R17,
R54); `accessTarget_register` is the converse. -/
theorem legal_of_register {p : Params} {txn : Txn} {reg : HostReg}
    (h : accessTarget p txn = .register reg) :
    txn.addr.toNat < 0x100 ∧ txn.size = 2#2 ∧ txn.addr.toNat % 4 = 0 := by
  unfold accessTarget at h
  split at h
  · cases h
  · rename_i n hn
    simp only at h
    split_ifs at h with hwindow haligned
    obtain ⟨rfl, ha⟩ := haligned
    exact ⟨hwindow, by simpa using sizeBytes_eq_some.mp hn, ha⟩

/-- An access reaches the aperture when it starts inside it and is naturally aligned (R51, R54). -/
theorem accessTarget_eq_aperture {p : Params} {txn : Txn} {i n : Nat} :
    accessTarget p txn = .aperture i n ↔
      sizeBytes txn.size = some n ∧ 0x1000000 ≤ txn.addr.toNat ∧
      txn.addr.toNat < 0x1000000 + 4 * p.maxPixels ∧ txn.addr.toNat % n = 0 ∧
      i = txn.addr.toNat - 0x1000000 := by
  unfold accessTarget apertureBase
  cases hn : sizeBytes txn.size with
  | none => simp
  | some k =>
    simp only
    split_ifs with hwindow haligned hrange halign <;> grind

/-- The accesses of R51 and R54: 32 bits, aligned, in the register window; 1, 2 or 4 bytes, naturally
aligned, in the aperture. -/
def LegalAccess (p : Params) (txn : Txn) : Prop :=
  (txn.addr.toNat < 0x100 ∧ txn.size = 2#2 ∧ txn.addr.toNat % 4 = 0) ∨
  (0x1000000 ≤ txn.addr.toNat ∧ txn.addr.toNat < 0x1000000 + 4 * p.maxPixels ∧
    (txn.size = 0#2 ∨ (txn.size = 1#2 ∧ txn.addr.toNat % 2 = 0) ∨
      (txn.size = 2#2 ∧ txn.addr.toNat % 4 = 0)))

theorem legal_of_aperture {p : Params} {txn : Txn} {i n : Nat}
    (h : accessTarget p txn = .aperture i n) : LegalAccess p txn := by
  obtain ⟨hsize, hlo, hhi, halign, -⟩ := accessTarget_eq_aperture.mp h
  rcases sizeBytes_eq_some.mp hsize with ⟨hs, rfl⟩ | ⟨hs, rfl⟩ | ⟨hs, rfl⟩
  · exact .inr ⟨hlo, hhi, .inl hs⟩
  · exact .inr ⟨hlo, hhi, .inr (.inl ⟨hs, halign⟩)⟩
  · exact .inr ⟨hlo, hhi, .inr (.inr ⟨hs, halign⟩)⟩

/-- A BusError is exactly an access that is not legal (R55). -/
theorem accessTarget_eq_busError {p : Params} {txn : Txn} :
    accessTarget p txn = .busError ↔ ¬ LegalAccess p txn := by
  constructor
  · rintro herr (⟨hr, hs, ha⟩ | ⟨hlo, hhi, hsize⟩)
    · simp [accessTarget_register p hs hr ha] at herr
    · have reaches {n : Nat} (hn : sizeBytes txn.size = some n) (ha : txn.addr.toNat % n = 0) : False := by
        rw [accessTarget_eq_aperture.mpr ⟨hn, hlo, hhi, ha, rfl⟩] at herr
        cases herr
      rcases hsize with hs | ⟨hs, ha⟩ | ⟨hs, ha⟩
      · exact reaches (n := 1) (sizeBytes_eq_some.mpr (by simp [hs])) (Nat.mod_one _)
      · exact reaches (n := 2) (sizeBytes_eq_some.mpr (by simp [hs])) ha
      · exact reaches (n := 4) (sizeBytes_eq_some.mpr (by simp [hs])) ha
  · intro hillegal
    cases htarget : accessTarget p txn with
    | busError => rfl
    | register reg => exact absurd (.inl (legal_of_register htarget)) hillegal
    | aperture i n => exact absurd (legal_of_aperture htarget) hillegal

/-- Settles O29: by `accessTarget_eq_busError`, from everything a transaction can do. -/
theorem busErrorExactlyOnIllegalAccess : Obligations.BusErrorExactlyOnIllegalAccess := by
  intro txn s
  change (¬ LegalAccess s.params txn → _) ∧ (LegalAccess s.params txn → _)
  rw [← accessTarget_eq_busError]
  rcases transact_cases txn s with
    ⟨herr, ht⟩ | ⟨reg, htarget, ⟨_, ht⟩ | ⟨_, ht⟩⟩ | ⟨i, n, htarget, ⟨_, ht⟩ | ⟨_, ht⟩⟩
  · exact ⟨fun _ => ht, fun hlegal => absurd hlegal (accessTarget_eq_busError.mp herr)⟩
  all_goals
    rw [ht, htarget]
    exact ⟨fun herr => (nomatch herr), fun _ => ⟨rfl, rfl⟩⟩

/-- Settles O32: of what a transaction can do, only a write changes more than the response. -/
theorem readsHaveNoSideEffect : Obligations.ReadsHaveNoSideEffect := by
  intro txn s hread
  rcases transact_cases txn s with
    ⟨_, ht⟩ | ⟨reg, _, ⟨hwrite, _⟩ | ⟨_, ht⟩⟩ | ⟨i, n, _, ⟨hwrite, _⟩ | ⟨_, ht⟩⟩
  · exact ⟨_, ht⟩
  · simp [hread] at hwrite
  · exact ⟨_, ht⟩
  · simp [hread] at hwrite
  · exact ⟨_, ht⟩

/-! ### Aperture accesses at an offset -/

theorem sizeBytes_sizeOfBytes {n : Nat} (hn : n = 1 ∨ n = 2 ∨ n = 4) :
    sizeBytes (sizeOfBytes n) = some n := by
  rcases hn with rfl | rfl | rfl <;> rfl

/-- A naturally aligned `MemRead` inside the aperture returns its lanes (R53, R70). -/
theorem transact_memRead_aperture {addr : BitVec 25} {n : Nat} {s : State}
    (hn : n = 1 ∨ n = 2 ∨ n = 4) (hlo : 0x1000000 ≤ addr.toNat)
    (hhi : addr.toNat < 0x1000000 + 4 * s.params.maxPixels) (ha : addr.toNat % n = 0) :
    transact (memReadTxn addr n) s =
      { s with bus := .readData (readLanes s.pixmem (addr.toNat - 0x1000000) n) } := by
  have h : accessTarget s.params (memReadTxn addr n) = .aperture (addr.toNat - 0x1000000) n :=
    accessTarget_eq_aperture.mpr ⟨sizeBytes_sizeOfBytes hn, hlo, hhi, ha, rfl⟩
  simp only [transact, h]
  rfl

/-- A naturally aligned `MemWrite` inside the aperture stores its lanes (R53, R70). -/
theorem transact_memWrite_aperture {addr : BitVec 25} {n : Nat} {s : State}
    (hn : n = 1 ∨ n = 2 ∨ n = 4) (hlo : 0x1000000 ≤ addr.toNat)
    (hhi : addr.toNat < 0x1000000 + 4 * s.params.maxPixels) (ha : addr.toNat % n = 0) (v : Word) :
    transact (memWriteTxn addr n v) s =
      { s with
        pixmem := writeLanes (addr.toNat - 0x1000000) n (v <<< (8 * (addr.toNat % 4))) s.pixmem
        bus := .written } := by
  have h : accessTarget s.params (memWriteTxn addr n v) = .aperture (addr.toNat - 0x1000000) n :=
    accessTarget_eq_aperture.mpr ⟨sizeBytes_sizeOfBytes hn, hlo, hhi, ha, rfl⟩
  simp only [transact, h]
  rfl

/-! ### Byte lanes -/

theorem laneUsed_iff {i n k : Nat} : laneUsed i n k = true ↔ i % 4 ≤ k ∧ k < i % 4 + n := by
  simp [laneUsed]

/-- A naturally aligned access stays inside one word (R54). -/
theorem lane_bound {i n : Nat} (hn : n = 1 ∨ n = 2 ∨ n = 4) (hi : i % n = 0) : i % 4 + n ≤ 4 := by
  rcases hn with rfl | rfl | rfl <;> omega

/-- An aperture write leaves every byte outside its `n` (R70). -/
theorem read_writeLanes_other {i n a : Nat} (ha : a < i ∨ i + n ≤ a) (v : Word) (m : Memory) :
    Memory.read (writeLanes i n v m) a = Memory.read m a := by
  have other (k : Nat) : ¬ (laneUsed i n k = true ∧ a = laneIndex i k) := by
    rintro ⟨hused, rfl⟩
    obtain ⟨hlo, hhi⟩ := laneUsed_iff.mp hused
    unfold laneIndex at ha
    omega
  simp only [writeLanes, read_writeLane, other, if_false]

/-- An aperture write stores lane `i mod 4 + k` of bus_wdata in byte `k` of its `n` (R53, R70). -/
theorem read_writeLanes_byte {i n k : Nat} (hk : k < n) (hlane : i % 4 + k < 4) (v : Word)
    (m : Memory) : Memory.read (writeLanes i n v m) (i + k) = lane v (i % 4 + k) := by
  have hused : laneUsed i n (i % 4 + k) = true := laneUsed_iff.mpr (by omega)
  have at_lane (l : Nat) : (laneUsed i n l = true ∧ i + k = laneIndex i l) ↔ l = i % 4 + k := by
    unfold laneIndex
    constructor
    · rintro ⟨_, he⟩
      omega
    · rintro rfl
      exact ⟨hused, by omega⟩
  simp only [writeLanes, read_writeLane, at_lane]
  interval_cases i % 4 + k <;> rfl

/-- Lane `k` of bus_rdata is what lane `k` returns (R70). -/
theorem lane_readLanes (m : Memory) (i n : Nat) {k : Nat} (hk : k < 4) :
    lane (readLanes m i n) k = readLane m i n k := by
  refine BitVec.eq_of_getLsbD_eq fun b hb => ?_
  simp only [lane, readLanes, BitVec.getLsbD_extractLsb', BitVec.getLsbD_append]
  interval_cases k <;> grind

/-- Lanes move up with a shift of the word by whole bytes (R70). -/
theorem lane_shiftLeft (v : Word) {r k : Nat} (hlane : r + k < 4) :
    lane (v <<< (8 * r)) (r + k) = lane v k := by
  refine BitVec.eq_of_getLsbD_eq fun b hb => ?_
  simp only [lane, BitVec.getLsbD_extractLsb', BitVec.getLsbD_shiftLeft]
  grind

/-- A word holds four lanes. -/
theorem lane_of_ge (v : Word) {k : Nat} (hk : 4 ≤ k) : lane v k = 0#8 := by
  refine BitVec.eq_of_getLsbD_eq fun b _ => ?_
  rw [lane, BitVec.getLsbD_extractLsb', BitVec.getLsbD_of_ge v _ (by omega)]
  simp

/-- Bit `b` of a word is bit `b mod 8` of its lane `b / 8`. -/
theorem getLsbD_eq_lane (v : Word) (b : Nat) : v.getLsbD b = (lane v (b / 8)).getLsbD (b % 8) := by
  rw [lane, BitVec.getLsbD_extractLsb', Nat.div_add_mod, decide_eq_true (Nat.mod_lt b (by decide)),
    Bool.true_and]

/-- The lanes of an aperture read, counted from the first one used: its `n` bytes, then zeros (R70). -/
theorem lane_readLanes_used (m : Memory) {i n : Nat} (hword : i % 4 + n ≤ 4) (k : Nat) :
    lane (readLanes m i n) (i % 4 + k) = if k < n then Memory.read m (i + k) else 0#8 := by
  have hindex : laneIndex i (i % 4 + k) = i + k := by
    unfold laneIndex
    omega
  by_cases hk : k < n
  · have hused : laneUsed i n (i % 4 + k) = true := laneUsed_iff.mpr (by omega)
    rw [lane_readLanes m i n (by omega), readLane, if_pos hused, hindex, if_pos hk]
  · have hunused : ¬ laneUsed i n (i % 4 + k) = true := fun hused => by
      have := laneUsed_iff.mp hused
      omega
    rw [if_neg hk]
    by_cases hlane : i % 4 + k < 4
    · rw [lane_readLanes m i n hlane, readLane, if_neg hunused]
    · exact lane_of_ge _ (by omega)

/-- The value of a read is the little-endian number in its `n` bytes: if they are the low lanes of `v`,
it is `v mod 2^(8n)` (R53). -/
theorem toNat_readLanes_shiftRight {m : Memory} {i n : Nat} {v : Word} (hword : i % 4 + n ≤ 4)
    (hbytes : ∀ k < n, Memory.read m (i + k) = lane v k) :
    (readLanes m i n >>> (8 * (i % 4))).toNat = v.toNat % 2 ^ (8 * n) := by
  refine Nat.eq_of_testBit_eq fun b => ?_
  have hdiv : (8 * (i % 4) + b) / 8 = i % 4 + b / 8 := by omega
  have hmod : (8 * (i % 4) + b) % 8 = b % 8 := by omega
  rw [BitVec.testBit_toNat, BitVec.getLsbD_ushiftRight, getLsbD_eq_lane, hdiv, hmod,
    lane_readLanes_used m hword, Nat.testBit_mod_two_pow, BitVec.testBit_toNat, getLsbD_eq_lane v b]
  by_cases hk : b / 8 < n
  · rw [if_pos hk, hbytes _ hk, decide_eq_true (by omega : b < 8 * n), Bool.true_and]
  · rw [if_neg hk, decide_eq_false (by omega : ¬ b < 8 * n), Bool.false_and, BitVec.getLsbD_zero]

/-- Settles O39: the bytes by `read_writeLanes_byte`, and the read of them by
`toNat_readLanes_shiftRight`; the block offset and the byte index agree mod 4. -/
theorem apertureWriteReadsBack : Obligations.ApertureWriteReadsBack := by
  intro addr n v s hn hlo hhi ha
  have hlt : addr.toNat < 0x1000000 + 4 * s.params.maxPixels := by omega
  have hmod : addr.toNat % 4 = (addr.toNat - 0x1000000) % 4 := by omega
  have hword : (addr.toNat - 0x1000000) % 4 + n ≤ 4 := hmod ▸ lane_bound hn ha
  obtain ⟨m, hm⟩ : ∃ m, m =
      writeLanes (addr.toNat - 0x1000000) n (v <<< (8 * (addr.toNat % 4))) s.pixmem := ⟨_, rfl⟩
  have hwrite : transact (memWriteTxn addr n v) s = { s with pixmem := m, bus := .written } :=
    hm ▸ transact_memWrite_aperture hn hlo hlt ha v
  have hbytes : ∀ k < n, Memory.read m (addr.toNat - 0x1000000 + k) = lane v k := fun k hk => by
    rw [hm, read_writeLanes_byte hk (by omega), hmod, lane_shiftLeft v (by omega)]
  have hother : ∀ a, (a < addr.toNat - 0x1000000 ∨ addr.toNat - 0x1000000 + n ≤ a) →
      Memory.read m a = Memory.read s.pixmem a := fun a hout => by
    rw [hm, read_writeLanes_other hout]
  have hread := transact_memRead_aperture (s := { s with pixmem := m, bus := .written }) hn hlo hlt ha
  rw [hwrite]
  refine ⟨rfl, hbytes, hother, _, congrArg State.bus hread, ?_⟩
  rw [memReadValue, hmod]
  exact toNat_readLanes_shiftRight hword hbytes

/-! ### A painted pixel as a word -/

/-- A 32-bit read of an aligned word returns its four bytes (R53). -/
theorem readLanes_word (m : Memory) {i : Nat} (hi : i % 4 = 0) :
    readLanes m i 4 = wordOfBytes (Memory.read m i) (Memory.read m (i + 1)) (Memory.read m (i + 2))
      (Memory.read m (i + 3)) := by
  simp [readLanes, readLane, laneUsed, laneIndex, wordOfBytes, hi]

/-- The four bytes of a painted pixel are its pixel word (R57, R205). -/
theorem readLanes_pixWrite (m : Memory) (w : Nat) (x y : Int) (c : Colour) :
    readLanes (pixWrite m w x y c) (pixelIndex w x y) 4 = c.pixelWord := by
  rw [readLanes_word _ (by simp [pixelIndex])]
  simp [read_pixWrite, wordOfBytes, Colour.pixelWord]

theorem toNat_pixelWord (c : Colour) :
    c.pixelWord.toNat = 0xFF000000 + c.b.toNat * 2 ^ 16 + c.g.toNat * 2 ^ 8 + c.r.toNat := by
  rw [Colour.pixelWord, toNat_append_eq_add, toNat_append_eq_add, toNat_append_eq_add,
    BitVec.toNat_ofNat]
  omega

/-- Settles O40: the read is a legal one, since a buffer that fits PIXMEM fits the aperture. -/
theorem paintedPixelReadsAsItsWord : Obligations.PaintedPixelReadsAsItsWord := by
  intro s w h x y c hp hx hy hfits
  obtain ⟨-, -, -, -, hmax, -⟩ := hp
  have hindex : pixelIndex w x y = 4 * (y * w + x) := rfl
  have hbound := pixelIndex_bound (inBounds_iff.mpr
    ⟨Int.natCast_nonneg x, Int.ofNat_lt.mpr hx, Int.natCast_nonneg y, Int.ofNat_lt.mpr hy⟩)
  rw [hindex] at hbound
  have hoff : (BitVec.ofNat 25 (0x1000000 + 4 * (y * w + x))).toNat =
      0x1000000 + 4 * (y * w + x) := by
    rw [BitVec.toNat_ofNat]
    omega
  have hread := transact_memRead_aperture (addr := BitVec.ofNat 25 (0x1000000 + 4 * (y * w + x)))
    (s := { s with pixmem := pixWrite s.pixmem w x y c }) (.inr (.inr rfl))
    (by omega) (by rw [hoff]; simp only; omega) (by omega)
  rw [hoff, Nat.add_sub_cancel_left, ← hindex, readLanes_pixWrite] at hread
  exact ⟨c.pixelWord, congrArg State.bus hread, toNat_pixelWord c⟩

end Sys2Proof.Machine
end

section
/-! PROOFS. The decoder (30_encoding.md R76 to R84) and the encoder (R88): what each opcode decodes to, the
fields and bytes of an encoded packet, and that only the bits R81 lists are read. -/

namespace Sys2Proof.Machine

/-! ### What an opcode decodes to -/

theorem decodePacket_of_op_fill {p : Packet} (h : p.op = 0x01#8) :
    decodePacket p = .fill p.x1 p.y1 p.colour := if_pos h

theorem decodePacket_of_op_line {p : Packet} (h : p.op = 0x02#8) :
    decodePacket p = .line p.x1 p.y1 p.x2 p.y2 p.width p.colour := by
  simp [decodePacket, h]

theorem decodePacket_of_op_clear {p : Packet} (h : p.op = 0x03#8) :
    decodePacket p = .clear p.colour := by
  simp [decodePacket, h]

theorem knownOpcode_eq_false_iff {op : Byte} :
    knownOpcode op = false ↔ op ≠ 0x01#8 ∧ op ≠ 0x02#8 ∧ op ≠ 0x03#8 := by
  simp [knownOpcode, and_assoc]

theorem decodePacket_of_op_unknown {p : Packet} (h : knownOpcode p.op = false) :
    decodePacket p = .skip p.op := by
  obtain ⟨hfill, hline, hclear⟩ := knownOpcode_eq_false_iff.mp h
  simp [decodePacket, hfill, hline, hclear]

/-- The rows of R82. -/
theorem opcode_cases (op : Byte) :
    op = 0x01#8 ∨ op = 0x02#8 ∨ op = 0x03#8 ∨ knownOpcode op = false := by
  rw [knownOpcode_eq_false_iff]
  tauto

/-- Decoding answers no command under a skipped packet's name (R83). -/
theorem decodePacket_wellFormed (p : Packet) : (decodePacket p).wellFormed = true := by
  rcases opcode_cases p.op with h | h | h | h
  · rw [decodePacket_of_op_fill h]; rfl
  · rw [decodePacket_of_op_line h]; rfl
  · rw [decodePacket_of_op_clear h]; rfl
  · rw [decodePacket_of_op_unknown h, Instr.wellFormed, h]; rfl

/-- Settles O3, by the decoder's equation for each row of R82. -/
theorem opcodeSelectsTheCommand : Obligations.OpcodeSelectsTheCommand := by
  intro p
  exact ⟨decodePacket_of_op_fill, decodePacket_of_op_line, decodePacket_of_op_clear,
    fun hfill hline hclear =>
      decodePacket_of_op_unknown (knownOpcode_eq_false_iff.mpr ⟨hfill, hline, hclear⟩),
    decodePacket_wellFormed p⟩

/-- Settles O4: the packets are concrete, and each is decoded by evaluation. -/
theorem workedEncodingsDecode : Obligations.WorkedEncodingsDecode := by
  refine ⟨?_, ?_, ?_, ?_, ?_, ?_⟩ <;> decide

/-! ### The fields of an encoded packet -/

theorem encodeW0_csel (op width : Byte) (csel : BitVec 1) :
    (encodeW0 op width csel).getLsbD 8 = csel.getLsbD 0 := by
  simp only [encodeW0, BitVec.getLsbD_append]
  simp

theorem encodeW0_width (op width : Byte) (csel : BitVec 1) :
    (encodeW0 op width csel).extractLsb' 16 8 = width := by
  unfold encodeW0
  iterate 3 rw [BitVec.extractLsb'_append_eq_of_le (by decide)]
  exact BitVec.extractLsb'_append_eq_right

theorem encodeXY_x (x y : Coord) : (encodeXY x y).extractLsb' 0 16 = x :=
  BitVec.extractLsb'_append_eq_right

theorem encodeXY_y (x y : Coord) : (encodeXY x y).extractLsb' 16 16 = y :=
  BitVec.extractLsb'_append_eq_left

/-- CSEL and W3 as R88 writes them for a colour are read back as that colour (R79). -/
theorem colour_of_encoded {p : Packet} {c : ColourOperand} (hcsel : p.csel = c.csel.getLsbD 0)
    (hw3 : p.w3 = c.word) : p.colour = c := by
  rw [Packet.colour, hcsel, hw3]
  cases c with
  | index idx =>
    have hidx : (ColourOperand.index idx).word.extractLsb' 0 8 = idx :=
      BitVec.extractLsb'_append_eq_right
    simp [ColourOperand.csel, hidx]
  | rgb r g b =>
    have hr : (ColourOperand.rgb r g b).word.extractLsb' 16 8 = r := by
      unfold ColourOperand.word
      iterate 2 rw [BitVec.extractLsb'_append_eq_of_le (by decide)]
      exact BitVec.extractLsb'_append_eq_right
    have hg : (ColourOperand.rgb r g b).word.extractLsb' 8 8 = g := by
      unfold ColourOperand.word
      rw [BitVec.extractLsb'_append_eq_of_le (by decide)]
      exact BitVec.extractLsb'_append_eq_right
    have hb : (ColourOperand.rgb r g b).word.extractLsb' 0 8 = b :=
      BitVec.extractLsb'_append_eq_right
    simp [ColourOperand.csel, hr, hg, hb]

/-- Decoding undoes encoding, on the words. -/
theorem decodePacket_encode {i : Instr} (hwf : i.wellFormed = true) : decodePacket (encode i) = i := by
  cases i with
  | fill x y c =>
    rw [decodePacket_of_op_fill (Laws.EncodedOpcode.fill x y c)]
    exact congr (congrArg₂ Instr.fill (encodeXY_x x y) (encodeXY_y x y))
      (colour_of_encoded (encodeW0_csel _ _ _) rfl)
  | line x1 y1 x2 y2 width c =>
    rw [decodePacket_of_op_line (Laws.EncodedOpcode.line x1 y1 x2 y2 width c), Instr.line.injEq]
    exact ⟨encodeXY_x x1 y1, encodeXY_y x1 y1, encodeXY_x x2 y2, encodeXY_y x2 y2,
      encodeW0_width _ _ _, colour_of_encoded (encodeW0_csel _ _ _) rfl⟩
  | clear c =>
    rw [decodePacket_of_op_clear (Laws.EncodedOpcode.clear c)]
    exact congrArg Instr.clear (colour_of_encoded (encodeW0_csel _ _ _) rfl)
  | skip op =>
    have hop : (encode (.skip op)).op = op := Laws.EncodedOpcode.skip op
    have hunknown : knownOpcode op = false := by simpa [Instr.wellFormed] using hwf
    rw [decodePacket_of_op_unknown (hop.symm ▸ hunknown), hop]

/-! ### A packet as bytes -/

/-- Little-endian bytes put together give the word back (20_memory.md R53). -/
theorem wordOfBytes_bytesOfWord (w : Word) :
    wordOfBytes (w.extractLsb' 0 8) (w.extractLsb' 8 8) (w.extractLsb' 16 8) (w.extractLsb' 24 8) =
      w := by
  unfold wordOfBytes
  rw [BitVec.extractLsb'_append_extractLsb'_eq_extractLsb' (show 24 = 16 + 8 from rfl),
    BitVec.extractLsb'_append_extractLsb'_eq_extractLsb' (show 16 = 8 + 8 from rfl),
    BitVec.extractLsb'_append_extractLsb'_eq_extractLsb' (show 8 = 0 + 8 from rfl)]
  exact BitVec.extractLsb'_eq_self

/-- The byte decoder on a packet's own bytes is the packet decoder (R53, R75). -/
theorem decode_bytes (p : Packet) : decode p.bytes = .ok (decodePacket p) := by
  have hwords : decode p.bytes = decodeWords [_, _, _, _] := rfl
  rw [hwords]
  simp only [wordOfBytes_bytesOfWord]
  rfl

/-- Settles O1: the packet's words decode to the command, and its bytes decode as its words do. -/
theorem decodeOfEncodeIsTheCommand : Obligations.DecodeOfEncodeIsTheCommand := by
  intro i hwf
  have hwords : decodePacket (encode i) = i := decodePacket_encode hwf
  exact ⟨hwords, by rw [decode_bytes, hwords]⟩

/-! ### The bits a command reads -/

/-- A mask keeps a field all of whose bits it has. -/
theorem extractLsb'_and_of_ones {w mask : Word} {start len : Nat}
    (hones : mask.extractLsb' start len = BitVec.allOnes len) :
    (w &&& mask).extractLsb' start len = w.extractLsb' start len := by
  rw [BitVec.extractLsb'_and, hones, BitVec.and_allOnes]

/-- A mask keeps a bit it has. -/
theorem getLsbD_and_of_one {w mask : Word} {b : Nat} (hone : mask.getLsbD b = true) :
    (w &&& mask).getLsbD b = w.getLsbD b := by
  rw [BitVec.getLsbD_and, hone, Bool.and_true]

/-- W3 of a packet without the bits its colour operand does not use (R79, R84). -/
def readColourWord (p : Packet) : Word :=
  if p.csel then p.w3 &&& 0x00FFFFFF#32 else p.w3 &&& 0x000000FF#32

theorem readBits_of_op_fill {p : Packet} (h : p.op = 0x01#8) :
    readBits p = ⟨p.w0 &&& 0x000001FF#32, p.w1, 0#32, readColourWord p⟩ := if_pos h

theorem readBits_of_op_line {p : Packet} (h : p.op = 0x02#8) :
    readBits p = ⟨p.w0 &&& 0x00FF01FF#32, p.w1, p.w2, readColourWord p⟩ := by
  simp [readBits, readColourWord, h]

theorem readBits_of_op_clear {p : Packet} (h : p.op = 0x03#8) :
    readBits p = ⟨p.w0 &&& 0x000001FF#32, 0#32, 0#32, readColourWord p⟩ := by
  simp [readBits, readColourWord, h]

theorem readBits_of_op_unknown {p : Packet} (h : knownOpcode p.op = false) :
    readBits p = ⟨p.w0 &&& 0x000000FF#32, 0#32, 0#32, 0#32⟩ := by
  obtain ⟨hfill, hline, hclear⟩ := knownOpcode_eq_false_iff.mp h
  simp [readBits, hfill, hline, hclear]

/-- The colour operand depends on CSEL and the bits of W3 that CSEL selects (R79). -/
theorem colour_of_readColourWord {p q : Packet} (hcsel : q.csel = p.csel)
    (hw3 : q.w3 = readColourWord p) : q.colour = p.colour := by
  rw [Packet.colour, Packet.colour, hcsel, hw3, readColourWord]
  cases p.csel
  · simp only [Bool.false_eq_true, if_false]
    rw [extractLsb'_and_of_ones (by decide)]
  · simp only [if_true]
    iterate 3 rw [extractLsb'_and_of_ones (by decide)]

/-- Every command reads all 8 bits of OP (R81, R82). -/
theorem readBits_op (p : Packet) : (readBits p).op = p.op := by
  unfold readBits
  split_ifs <;> exact extractLsb'_and_of_ones (by decide)

/-- Clearing the bits that R81 does not list leaves the decoded command as it was. -/
theorem decodePacket_readBits (p : Packet) : decodePacket (readBits p) = decodePacket p := by
  have hop : (readBits p).op = p.op := readBits_op p
  rcases opcode_cases p.op with h | h | h | h
  · rw [decodePacket_of_op_fill h, decodePacket_of_op_fill (hop.trans h), readBits_of_op_fill h]
    exact congrArg (Instr.fill p.x1 p.y1)
      (colour_of_readColourWord (getLsbD_and_of_one (by decide)) rfl)
  · rw [decodePacket_of_op_line h, decodePacket_of_op_line (hop.trans h), readBits_of_op_line h]
    exact congrArg₂ (Instr.line p.x1 p.y1 p.x2 p.y2) (extractLsb'_and_of_ones (by decide))
      (colour_of_readColourWord (getLsbD_and_of_one (by decide)) rfl)
  · rw [decodePacket_of_op_clear h, decodePacket_of_op_clear (hop.trans h), readBits_of_op_clear h]
    exact congrArg Instr.clear
      (colour_of_readColourWord (getLsbD_and_of_one (by decide)) rfl)
  · rw [decodePacket_of_op_unknown h, decodePacket_of_op_unknown (hop.symm ▸ h), hop]

/-- Settles O2: two packets with the same read bits decode as those bits do. -/
theorem ignoredBitsHaveNoEffect : Obligations.IgnoredBitsHaveNoEffect := by
  refine ⟨decodePacket_readBits, fun p q hbits => ?_⟩
  calc decodePacket p
      = decodePacket (readBits p) := (decodePacket_readBits p).symm
    _ = decodePacket (readBits q) := by rw [hbits]
    _ = decodePacket q := decodePacket_readBits q

end Sys2Proof.Machine
end

section
/-! PROOFS. The host software (30_encoding.md R87 to R90): which operands the assembler takes and what it
writes for them, wire records, and the steps of WAIT (R89, 70_reset_and_hazards.md R204). -/

namespace Sys2Proof.Machine

/-! ### Operands -/

/-- The coordinate field of an operand is the one that reads as its value (R78, R87). -/
theorem coordOperand_eq_some_iff {v : Int} {a : Coord} :
    coordOperand v = some a ↔ coordValue a = v := by
  unfold coordOperand coordValue
  have hlow := BitVec.le_toInt a
  have hhigh := BitVec.toInt_lt (x := a)
  split_ifs with hv
  · rw [Option.some.injEq]
    constructor
    · rintro rfl
      exact BitVec.toInt_ofInt_eq_self (by decide) (by omega) (by omega)
    · rintro rfl
      exact BitVec.ofInt_toInt
  · simp only [false_iff]
    rintro rfl
    exact hv ⟨by omega, by omega⟩

/-- A width or index field of an operand is the one that reads as its value (R80, R87). -/
theorem byteOperand_eq_some_iff {v : Int} {b : Byte} :
    byteOperand v = some b ↔ (b.toNat : Int) = v := by
  unfold byteOperand
  split_ifs with hv
  · rw [Option.some.injEq]
    constructor
    · rintro rfl
      rw [BitVec.toNat_ofInt]
      omega
    · rintro rfl
      simp
  · simp only [false_iff]
    rintro rfl
    exact hv ⟨by omega, by omega⟩

/-- The values of a coordinate field (R78). -/
theorem exists_coordValue_iff {v : Int} : (∃ a, coordValue a = v) ↔ -32768 ≤ v ∧ v ≤ 32767 := by
  simp only [← coordOperand_eq_some_iff, ← Option.isSome_iff_exists]
  simp [coordOperand]

/-- The values of an 8-bit field (R80). -/
theorem exists_byteValue_iff {v : Int} :
    (∃ b : Byte, (b.toNat : Int) = v) ↔ 0 ≤ v ∧ v ≤ 255 := by
  simp only [← byteOperand_eq_some_iff, ← Option.isSome_iff_exists]
  simp [byteOperand]

/-! ### The packets of FILL and LINE with a palette index -/

/-- What the assembler writes for `FILL x, y, @n`, if it takes the operands (R87, R88). -/
theorem assemble_fill_eq_some_iff {x y n : Int} {p : Packet} :
    assemble (.fill x y (.index n)) = some p ↔
      ∃ a b idx, coordValue a = x ∧ coordValue b = y ∧ ((idx : Byte).toNat : Int) = n ∧
        encode (.fill a b (.index idx)) = p := by
  simp [assemble, colourOperand, Option.bind_eq_some_iff, coordOperand_eq_some_iff,
    byteOperand_eq_some_iff]

/-- What the assembler writes for `LINE x1, y1, x2, y2, width, @n`, if it takes the operands (R87, R88). -/
theorem assemble_line_eq_some_iff {x1 y1 x2 y2 width n : Int} {p : Packet} :
    assemble (.line x1 y1 x2 y2 width (.index n)) = some p ↔
      ∃ a b c d w idx, coordValue a = x1 ∧ coordValue b = y1 ∧ coordValue c = x2 ∧
        coordValue d = y2 ∧ ((w : Byte).toNat : Int) = width ∧ ((idx : Byte).toNat : Int) = n ∧
        encode (.line a b c d w (.index idx)) = p := by
  simp [assemble, colourOperand, Option.bind_eq_some_iff, coordOperand_eq_some_iff,
    byteOperand_eq_some_iff]

/-- Settles O5: the assembler takes exactly the values that its operand fields hold, and what it then
writes decodes to the command of those fields. -/
theorem assembledLineDecodes : Obligations.AssembledLineDecodes := by
  intro x1 y1 x2 y2 width n
  simp only [← exists_coordValue_iff, ← exists_byteValue_iff]
  constructor
  · rintro ⟨⟨a, ha⟩, ⟨b, hb⟩, ⟨c, hc⟩, ⟨d, hd⟩, ⟨w, hw⟩, ⟨idx, hidx⟩⟩
    exact ⟨_, a, b, c, d, w, idx,
      assemble_line_eq_some_iff.mpr ⟨a, b, c, d, w, idx, ha, hb, hc, hd, hw, hidx, rfl⟩,
      decodePacket_encode rfl, ha, hb, hc, hd, hw, hidx⟩
  · refine fun hbad => Option.eq_none_iff_forall_ne_some.mpr fun p hp => hbad ?_
    obtain ⟨a, b, c, d, w, idx, ha, hb, hc, hd, hw, hidx, -⟩ := assemble_line_eq_some_iff.mp hp
    exact ⟨⟨a, ha⟩, ⟨b, hb⟩, ⟨c, hc⟩, ⟨d, hd⟩, ⟨w, hw⟩, ⟨idx, hidx⟩⟩

/-! ### Wire records -/

/-- Settles O6: a record is assembled as the FILL or LINE of its fields. -/
theorem wireRecordsTranslate : Obligations.WireRecordsTranslate := by
  refine ⟨fun x y color hx hy hcolor => ?_, fun x y color hbad => ?_,
    fun x y x2 y2 color width => ?_, rfl⟩
  · obtain ⟨a, ha⟩ := exists_coordValue_iff.mpr hx
    obtain ⟨b, hb⟩ := exists_coordValue_iff.mpr hy
    obtain ⟨idx, hidx⟩ := exists_byteValue_iff.mpr hcolor
    exact ⟨_, a, b, idx, assemble_fill_eq_some_iff.mpr ⟨a, b, idx, ha, hb, hidx, rfl⟩,
      decodePacket_encode rfl, ha, hb, hidx⟩
  · refine Option.eq_none_iff_forall_ne_some.mpr fun p hp => hbad ?_
    obtain ⟨a, b, idx, ha, hb, hidx, -⟩ := assemble_fill_eq_some_iff.mp hp
    exact ⟨exists_coordValue_iff.mp ⟨a, ha⟩, exists_coordValue_iff.mp ⟨b, hb⟩,
      exists_byteValue_iff.mp ⟨idx, hidx⟩⟩
  · obtain ⟨hdecodes, herror⟩ := assembledLineDecodes x y x2 y2 width color
    constructor
    · rintro ⟨hx, hy, hx2, hy2, hcolor, hwidth⟩
      exact hdecodes ⟨hx, hy, hx2, hy2, hwidth, hcolor⟩
    · refine fun hbad => herror fun ⟨hx, hy, hx2, hy2, hwidth, hcolor⟩ => hbad ?_
      exact ⟨hx, hy, hx2, hy2, hcolor, hwidth⟩

/-! ### WAIT -/

theorem step_of_wait {rest : List Input} {s : State} (hi : s.inputs = .wait :: rest) :
    step s = waitStep rest s := by
  simp [step, nextStep, hi]

theorem drained_iff {s : State} : drained s = true ↔ s.busy = false ∧ s.queue = [] := by
  simp [drained]

theorem engineEnabled_iff {s : State} :
    engineEnabled s = true ↔ s.busy = true ∨ (s.run = true ∧ s.queue ≠ []) := by
  cases hb : s.busy <;> simp [engineEnabled, dispatchEnabled, hb]

/-- A drained block has no step of the engine left (R97, R99). -/
theorem drained_eq_false_of_engineEnabled {s : State} (he : engineEnabled s = true) :
    drained s = false := by
  rw [Bool.eq_false_iff, Ne, drained_iff]
  rintro ⟨hb, hq⟩
  simp [engineEnabled_iff, hb, hq] at he

theorem waitStep_of_drained {rest : List Input} {s : State} (hd : drained s = true) :
    waitStep rest s = .next (pollStatus { s with inputs := rest }) := if_pos hd

theorem waitStep_of_engineEnabled {rest : List Input} {s : State} (he : engineEnabled s = true) :
    waitStep rest s = engineStep s := by
  simp [waitStep, drained_eq_false_of_engineEnabled he, he]

theorem waitStep_of_stalled {rest : List Input} {s : State} (hd : drained s = false)
    (he : engineEnabled s = false) : waitStep rest s = .next (pollStatus s) := by
  simp [waitStep, hd, he]

/-- Settles O43, by the three cases of a WAIT: drained, the engine can move, and stopped with packets
left. -/
theorem waitEndsWhenDrained : Obligations.WaitEndsWhenDrained := by
  intro s rest hi
  rw [step_of_wait hi]
  refine ⟨fun hdrained => ?_, fun henabled => ?_, fun ⟨hb, hrun, hq⟩ => ?_⟩
  · exact waitStep_of_drained (drained_iff.mpr hdrained)
  · have hturn : step { s with inputs := .engine :: s.inputs } = engineStep s := step_of_engine rfl
    exact (waitStep_of_engineEnabled (engineEnabled_iff.mpr henabled)).trans hturn.symm
  · have hd : drained s = false := Bool.eq_false_iff.mpr fun h => hq (drained_iff.mp h).2
    have he : engineEnabled s = false := by
      rw [Bool.eq_false_iff, Ne, engineEnabled_iff]
      simp [hb, hrun]
    exact waitStep_of_stalled hd he

end Sys2Proof.Machine
end

section
/-! PROOFS. The engine's steps, each as its dispatch or completion rule writes it (40_dispatch.md R97 to
R105), the order of a command's checks (R100, R173), and the doorbell (R95, R96). -/

namespace Sys2Proof.Machine

/-! ### Completion -/

theorem engineStep_of_running {s : State} (hb : s.busy = true) :
    engineStep s = complete { s with bus := .notReady } := if_pos hb

theorem complete_of_exec_fault {s : State} {e : Fault}
    (h : exec (decodePacket s.cur.packet) s = .fault e) : complete s = .fault e := by
  simp [complete, h]

/-- Settles O7, by what the decoded command answers: the bookkeeping follows a next state, a fault stops
the machine, and no command is refused. -/
theorem stepRunsTheDecodedCommand : Obligations.StepRunsTheDecodedCommand := by
  intro s i rest hb hi hinputs
  subst hi
  rw [step_of_engine hinputs, engineStep_of_running (s := { s with inputs := rest }) hb]
  cases hexec : exec (decodePacket s.cur.packet) { s with inputs := rest, bus := .notReady } with
  | next t => exact complete_of_exec hexec
  | fault e => exact complete_of_exec_fault hexec
  | refused r => exact absurd hexec (exec_not_refused _ _ r)

/-- The busy engine's turn is the command of CUR, then `finishCommand` (R99, R104). -/
theorem engineStep_next_of_running {s t : State} (hb : s.busy = true) (h : engineStep s = .next t) :
    ∃ u, exec (decodePacket s.cur.packet) { s with bus := .notReady } = .next u ∧
      t = finishCommand u := by
  rw [engineStep_of_running hb] at h
  exact complete_next h

/-- Settles O10: `finishCommand` after a command, whose frame keeps IDLE and Q. -/
theorem completionBookkeeping : Obligations.CompletionBookkeeping := by
  intro s t rest hb hinputs h
  rw [step_of_engine hinputs] at h
  obtain ⟨u, hu, rfl⟩ := engineStep_next_of_running (s := { s with inputs := rest }) hb h
  have f := exec_frame hu
  have hidle : (u.events.idle || u.queue.isEmpty) = (s.events.idle || s.queue.isEmpty) := by
    rw [f.idle, f.queue]
  exact ⟨rfl, hidle, rfl, rfl, f.queue⟩

/-! ### Dispatch and the idle engine -/

/-- Settles O8: the dispatch step at the engine's turn. -/
theorem dispatchTakesTheHead : Obligations.DispatchTakesTheHead := by
  intro s p q rest hrun hb hq hinputs
  rw [step_of_engine hinputs]
  exact engineStep_of_dispatch (s := { s with inputs := rest }) hb hrun hq

/-- Nothing is dispatched with RUN = 0 or with Q empty (R97). -/
theorem dispatchEnabled_eq_false {s : State} (h : s.run = false ∨ s.queue = []) :
    dispatchEnabled s = false := by
  rcases h with hrun | hq
  · simp [dispatchEnabled, hrun]
  · simp [dispatchEnabled, hq]

/-- Settles O9: neither step of the engine is enabled. -/
theorem idleEngineChangesNothing : Obligations.IdleEngineChangesNothing := by
  intro s rest hb h hinputs
  rw [step_of_engine hinputs]
  exact engineStep_of_idle (s := { s with inputs := rest }) hb (dispatchEnabled_eq_false h)

/-! ### The checks of a command -/

/-- The command is a FILL, a LINE or a CLEAR in the colour `co` (R79, R82). -/
def DrawsIn (i : Instr) (co : ColourOperand) : Prop :=
  (∃ x y, i = .fill x y co) ∨ (∃ x1 y1 x2 y2 w, i = .line x1 y1 x2 y2 w co) ∨ i = .clear co

/-- Every command but a skipped packet has a colour. -/
theorem exists_drawsIn {i : Instr} (hi : ∀ op, i ≠ .skip op) : ∃ co, DrawsIn i co := by
  cases i with
  | fill x y co => exact ⟨co, .inl ⟨x, y, rfl⟩⟩
  | line x1 y1 x2 y2 w co => exact ⟨co, .inr (.inl ⟨x1, y1, x2, y2, w, rfl⟩)⟩
  | clear co => exact ⟨co, .inr (.inr rfl)⟩
  | skip op => exact absurd rfl (hi op)

/-- A command with a colour begins with the checks of R100. -/
theorem exec_of_drawsIn {i : Instr} {co : ColourOperand} (hi : DrawsIn i co) (s : State) :
    ∃ draw, exec i s = withChecks co s draw := by
  rcases hi with ⟨x, y, rfl⟩ | ⟨x1, y1, x2, y2, w, rfl⟩ | rfl <;> exact ⟨_, rfl⟩

/-- The geometry is checked before the colour, which therefore does not matter here (R100, R173). -/
theorem withChecks_config {s : State} (hc : configOk s.params s.cur.w.toNat s.cur.h.toNat = false)
    (co : ColourOperand) (draw : Colour → Result) :
    withChecks co s draw = .next (recordError .config s) := by
  simp [withChecks, hc]

theorem withChecks_badColor {co : ColourOperand} {s : State}
    (hc : configOk s.params s.cur.w.toNat s.cur.h.toNat = true) (hr : resolveColour co = none)
    (draw : Colour → Result) : withChecks co s draw = .next (recordError .badColor s) := by
  simp [withChecks, hc, hr]

/-- The width is checked last (R100, R103). -/
theorem execLine_badWidth {co : ColourOperand} {c : Colour} {s : State}
    (hc : configOk s.params s.cur.w.toNat s.cur.h.toNat = true) (hr : resolveColour co = some c)
    (x1 y1 x2 y2 : Coord) : execLine x1 y1 x2 y2 0#8 co s = .next (recordError .badWidth s) := by
  rw [execLine, withChecks_draws hc hr, if_pos rfl]

/-- Settles O18: one check after the other, each discard being `recordError`. -/
theorem checksDiscardInOrder : Obligations.ChecksDiscardInOrder := by
  intro i s
  refine ⟨fun hgeometry hskip => ?_, fun hgeometry idx hidx hdraws => ?_,
    fun hgeometry x1 y1 x2 y2 co c hr hi => ?_⟩
  · obtain ⟨co, hco⟩ := exists_drawsIn hskip
    obtain ⟨draw, hexec⟩ := exec_of_drawsIn hco s
    exact hexec.trans (withChecks_config hgeometry co draw)
  · have hnone : resolveColour (.index idx) = none := resolveColour_eq_none.mpr ⟨idx, rfl, hidx⟩
    obtain ⟨draw, hexec⟩ := exec_of_drawsIn hdraws s
    exact hexec.trans (withChecks_badColor hgeometry hnone draw)
  · rw [hi]
    exact execLine_badWidth hgeometry hr x1 y1 x2 y2

/-! ### The doorbell -/

/-- `MemWrite(off, 4, v)` at an aligned offset of the register window reaches its register (R17, R54). -/
theorem accessTarget_memWrite_register (p : Params) {off : BitVec 25} (hr : off.toNat < 0x100)
    (ha : off.toNat % 4 = 0) (v : Word) :
    accessTarget p (memWriteTxn off 4 v) = .register (regAt off.toNat) :=
  accessTarget_register p rfl hr ha

theorem accessTarget_doorbell (p : Params) (v : Word) :
    accessTarget p (memWriteTxn 0x040#25 4 v) = .register .doorbell :=
  accessTarget_memWrite_register p (by decide) (by decide) v

/-- R56 does not hold a doorbell write, whatever the engine does. -/
theorem held_doorbell (v : Word) (s : State) : held (memWriteTxn 0x040#25 4 v) s = false := by
  rw [Bool.eq_false_iff, Ne, held_iff, accessTarget_doorbell]
  simp

theorem transact_doorbell (v : Word) (s : State) :
    transact (memWriteTxn 0x040#25 4 v) s = { pushStaged s with bus := .written } :=
  transact_memWrite_register (by decide) (by decide) v s

theorem pushStaged_of_room {s : State} (h : s.queue.length < s.params.qdepth) :
    pushStaged s = { s with queue := s.queue ++ [stagedPacket s] } := if_pos h

theorem pushStaged_of_full {s : State} (h : s.params.qdepth ≤ s.queue.length) :
    pushStaged s = { s with events := { s.events with ovf := true } } := if_neg (Nat.not_lt.mpr h)

/-- Settles O38: the write reaches DOORBELL, and pushes or sets OVF as Q has room or not. -/
theorem doorbellPushesOrDrops : Obligations.DoorbellPushesOrDrops := by
  intro v s
  refine ⟨held_doorbell v s, fun hroom => ?_, fun hfull => ?_⟩
  · rw [transact_doorbell, pushStaged_of_room hroom]
    rfl
  · rw [transact_doorbell, pushStaged_of_full hfull.ge]

end Sys2Proof.Machine
end

section
/-! PROOFS. Progress: every step from a state that keeps the invariant answers (40_dispatch.md R99,
60_exceptions.md R179), and with a silent host the engine drains Q (70_reset_and_hazards.md R204, R208). -/

namespace Sys2Proof.Machine

/-! ### No step stops -/

/-- The engine's turn answers, busy or not: a dispatch and an idle turn cannot fail. -/
theorem engineStep_answers_of_inv {s : State} (hs : Inv s) : ∃ t, engineStep s = .next t := by
  cases hb : s.busy with
  | true => exact engineStep_answers hs hb
  | false =>
    rw [engineStep, hb]
    cases dispatchEnabled s with
    | true => exact ⟨_, rfl⟩
    | false => exact ⟨_, rfl⟩

/-- A step of WAIT answers: it is a read of STATUS or the engine's turn (30_encoding.md R89). -/
theorem waitStep_answers_of_inv {s : State} (hs : Inv s) (rest : List Input) :
    ∃ t, waitStep rest s = .next t := by
  cases hd : drained s with
  | true => exact ⟨_, waitStep_of_drained hd⟩
  | false =>
    cases he : engineEnabled s with
    | true =>
      rw [waitStep_of_engineEnabled he]
      exact engineStep_answers_of_inv hs
    | false => exact ⟨_, waitStep_of_stalled hd he⟩

/-- With a silent host only the engine moves. -/
theorem step_of_silent {s : State} (hi : s.inputs = []) : step s = engineStep s := by
  simp [step, nextStep, hi]

theorem step_of_reset {written : List Nat} {rest : List Input} {s : State}
    (hi : s.inputs = .reset written :: rest) :
    step s = .next (resetStep written { s with inputs := rest }) := by
  simp [step, nextStep, hi]

/-- Settles O49, by the input that decides the step. -/
theorem noStepStops : Obligations.NoStepStops := by
  intro s hs
  match hi : s.inputs with
  | [] =>
    rw [step_of_silent hi]
    exact engineStep_answers_of_inv hs
  | .host txn :: rest =>
    cases hh : held txn s with
    | true =>
      rw [step_of_held hi hh]
      exact engineStep_answers_of_inv hs
    | false => exact ⟨_, step_of_not_held hi hh⟩
  | .engine :: rest =>
    rw [step_of_engine hi]
    exact engineStep_answers_of_inv (hs.withBusInputs s.bus rest)
  | .wait :: rest =>
    rw [step_of_wait hi]
    exact waitStep_answers_of_inv hs rest
  | .reset written :: rest => exact ⟨_, step_of_reset hi⟩

/-! ### The engine drains Q -/

/-- The engine's turn leaves what only the host sets, RUN and CFG_DIM, and the inputs to come (R106). -/
theorem engineStep_hostFields {s t : State} (h : engineStep s = .next t) :
    t.run = s.run ∧ t.cfgDim = s.cfgDim ∧ t.inputs = s.inputs := by
  rcases engineStep_next h with ⟨_, u, hu, rfl⟩ | ⟨_, _, p, rest, _, rfl⟩ | ⟨_, _, rfl⟩
  · have f := exec_frame hu
    exact ⟨f.run, f.cfgDim, f.inputs⟩
  · exact ⟨rfl, rfl, rfl⟩
  · exact ⟨rfl, rfl, rfl⟩

/-- The count of steps left is 0 exactly for a drained block (R204). -/
theorem stepsToDrain_eq_zero_iff {s : State} :
    stepsToDrain s = 0 ↔ s.busy = false ∧ s.queue = [] := by
  cases hb : s.busy <;> simp [stepsToDrain, hb]

/-- Each enabled turn of the engine takes one step off: a completion the one of CUR, a dispatch one of
the two of its packet (R97, R99). -/
theorem engineStep_stepsToDrain {s t : State} (he : engineEnabled s = true)
    (h : engineStep s = .next t) : stepsToDrain s = stepsToDrain t + 1 := by
  rcases engineStep_next h with ⟨hb, u, hu, rfl⟩ | ⟨hb, _, p, rest, hq, rfl⟩ | ⟨hb, hd, _⟩
  · simp [stepsToDrain, hb, (exec_frame hu).queue]
  · simp only [stepsToDrain, hb, hq, latch_queue, latch_busy, List.length_cons,
      Bool.false_eq_true, if_false, if_true]
    omega
  · simp [engineEnabled, hb, hd] at he

/-- A block that drains by itself: the invariant holds, RUN = 1 and the host is silent. -/
structure SelfDraining (s : State) : Prop where
  inv : Inv s
  run : s.run = true
  silent : s.inputs = []

theorem SelfDraining.engineStep {s t : State} (hs : SelfDraining s) (h : engineStep s = .next t) :
    SelfDraining t := by
  obtain ⟨hrun, _, hinputs⟩ := engineStep_hostFields h
  exact ⟨hs.inv.engineStep h, hrun.trans hs.run, hinputs.trans hs.silent⟩

/-- With RUN = 1 the engine has a step as long as the block is not drained (R97, R99). -/
theorem SelfDraining.engineEnabled {s : State} (hs : SelfDraining s) (hne : stepsToDrain s ≠ 0) :
    engineEnabled s = true := by
  rw [engineEnabled_iff]
  rw [Ne, stepsToDrain_eq_zero_iff, not_and] at hne
  cases hb : s.busy with
  | true => exact .inl rfl
  | false => exact .inr ⟨hs.run, hne hb⟩

/-- A run whose first step goes to `t` goes on from `t`. -/
theorem run_succ_of_step {M : Host.Core} {s t : M.State} (h : M.step s = .next t) (n : Nat) :
    M.run (n + 1) s = M.run n t := by
  rw [Host.Core.run, h]

/-- By induction on the steps left, each of which is an enabled turn of the engine. -/
theorem SelfDraining.run_drains {n : Nat} {s : State} (hs : SelfDraining s)
    (hn : stepsToDrain s = n) :
    ∃ t : State, Host.Core.run Sys2Proof.core n s = .next t ∧
      t.busy = false ∧ t.queue = [] ∧ t.cfgDim = s.cfgDim := by
  induction n generalizing s with
  | zero =>
    obtain ⟨hb, hq⟩ := stepsToDrain_eq_zero_iff.mp hn
    exact ⟨s, rfl, hb, hq, rfl⟩
  | succ n ih =>
    have he : Machine.engineEnabled s = true := hs.engineEnabled (by omega)
    obtain ⟨u, hu⟩ := engineStep_answers_of_inv hs.inv
    have hleft : stepsToDrain s = stepsToDrain u + 1 := engineStep_stepsToDrain he hu
    obtain ⟨_, hcfg, _⟩ := engineStep_hostFields hu
    obtain ⟨t, hrun, hb, hq, hdim⟩ := ih (hs.engineStep hu) (by omega)
    have hstep : step s = .next u := (step_of_silent hs.silent).trans hu
    exact ⟨t, (run_succ_of_step hstep n).trans hrun, hb, hq, hdim.trans hcfg⟩

/-- Settles O50, by induction on the steps left to drain. -/
theorem engineDrainsTheQueue : Obligations.EngineDrainsTheQueue :=
  fun _ hs hrun hsilent => SelfDraining.run_drains ⟨hs, hrun, hsilent⟩ rfl

end Sys2Proof.Machine
end

section
/-! PROOFS. A FILL across its checks (40_dispatch.md R100, 41_fill.md R115): when it does nothing, that it
always answers (R121, R122), and that the same FILL again does nothing (R124). -/

namespace Sys2Proof.Machine

/-! ### A FILL that passes its checks -/

theorem exec_fill_of_checks {co : ColourOperand} {c : Colour} {s : State}
    (hok : configOk s.params s.cur.w.toNat s.cur.h.toNat = true) (hr : resolveColour co = some c)
    (x y : Coord) : exec (.fill x y co) s = fillAt (coordValue x) (coordValue y) c s :=
  withChecks_draws hok hr

/-- The two no-op paths of R115. -/
theorem fillAt_without_effect {x y : Int} {c : Colour} {s : State}
    (h : inBounds s.cur.w.toNat s.cur.h.toNat x y = false ∨ rgbAt s.pixmem s.cur.w.toNat x y = c) :
    fillAt x y c s = .next (setFillResult 0 s) := by
  rcases fillAt_cases x y c s with ⟨_, he⟩ | ⟨hb, hne, _⟩
  · exact he
  · rcases h with hout | hsame
    · simp [hb] at hout
    · exact absurd hsame hne

/-- Settles O14: past the checks, each of the two tests of R115 ends the FILL. -/
theorem fillWithoutEffect : Obligations.FillWithoutEffect := by
  intro x y co c s hok hr hnoop
  rw [exec_fill_of_checks hok hr]
  exact fillAt_without_effect hnoop

/-- Settles O16: a FILL is one of the commands that always answer. -/
theorem fillNeverStops : Obligations.FillNeverStops :=
  fun x y co _ hroom hstk => exec_answers (.fill x y co) hroom hstk

/-! ### The same FILL again -/

/-- Once a pixel shows the fill colour, every later paint of the FILL leaves it so. -/
theorem rgbAt_pixWrite_of_colour {m : Memory} {w h : Nat} {x y u v : Int} {c : Colour}
    (hb : inBounds w h x y = true) (hbu : inBounds w h u v = true) (hc : rgbAt m w u v = c) :
    rgbAt (pixWrite m w x y c) w u v = c := by
  by_cases hsame : u = x ∧ v = y
  · obtain ⟨rfl, rfl⟩ := hsame
    exact (pixelIs_pixWrite m w u v c).1
  · exact (pixel_pixWrite_other hb hbu hsame).1.trans hc

/-- A traversal leaves its seed in the fill colour. -/
theorem fillTraverse_seed {j : FillJob} {x y : Int} {m : Memory} {stk : List (Int × Int)}
    {t : Traversal} (hb : inBounds j.w j.h x y = true) (h : fillTraverse j x y m stk = .ok t) :
    rgbAt t.mem j.w x y = j.colour :=
  fillTraverse_induct (P := fun t => rgbAt t.mem j.w x y = j.colour)
    (fun _ _ _ ht hm => rgbAt_pixWrite_of_colour (fillMatches_iff.mp hm).1 hb ht)
    (fun _ _ _ ht hm _ => rgbAt_pixWrite_of_colour (fillMatches_iff.mp hm).1 hb ht)
    (fun _ _ _ ht _ => ht) (pixelIs_pixWrite m j.w x y j.colour).1 h

/-- Whatever a FILL did, its seed is then out of bounds or in the fill colour (R124). -/
theorem fillAt_seed {x y : Int} {c : Colour} {s t : State} (h : fillAt x y c s = .next t) :
    inBounds s.cur.w.toNat s.cur.h.toNat x y = false ∨ rgbAt t.pixmem s.cur.w.toNat x y = c := by
  rcases fillAt_cases x y c s with ⟨hnoop, he⟩ | ⟨hb, _, ⟨e, _, he⟩ | ⟨tr, htr, he⟩⟩
  · rw [he] at h
    cases h
    exact hnoop
  · rw [he] at h
    cases h
  · rw [he] at h
    cases h
    exact .inr (fillTraverse_seed (j := fillJob x y c s) hb htr)

/-- Settles O17: the first FILL leaves the geometry, and its seed where the second one stops. -/
theorem repeatedFillIsNoOp : Obligations.RepeatedFillIsNoOp := by
  intro x y co c s t hok hr h
  have f := exec_frame h
  have hokt : configOk t.params t.cur.w.toNat t.cur.h.toNat = true := by rwa [f.params, f.cur]
  rw [exec_fill_of_checks hok hr] at h
  refine fillWithoutEffect x y co c t hokt hr ?_
  rw [f.cur]
  exact fillAt_seed h

end Sys2Proof.Machine
end

section
/-! PROOFS. The traversal of a FILL paints exactly the component of its seed (41_fill.md R116 to R120). The
argument is R120's: what is painted is connected to the seed, and a painted pixel that is neither on STK
nor in the span being processed has no matching neighbour left. -/

namespace Sys2Proof.Machine

/-! ### Matching pixels and repainted pixels -/

/-- Painting a pixel takes that one pixel out of those that match (R119). -/
theorem fillMatches_pixWrite {j : FillJob} {m : Memory} {u v a b : Int} (hj : j.colour ≠ j.target)
    (hb : inBounds j.w j.h u v = true) :
    fillMatches j (pixWrite m j.w u v j.colour) a b = true ↔
      fillMatches j m a b = true ∧ (a, b) ≠ (u, v) := by
  simp only [fillMatches_iff, and_assoc, ne_eq, Prod.mk.injEq]
  refine and_congr_right fun hab => ?_
  by_cases hsame : a = u ∧ b = v
  · obtain ⟨rfl, rfl⟩ := hsame
    simp [(pixelIs_pixWrite m j.w a b j.colour).1, hj]
  · rw [(pixel_pixWrite_other hb hab hsame).1]
    simp [hsame]

/-- A pixel that does not match never matches later (R120). -/
theorem fillMatches_pixWrite_of_false {j : FillJob} {m : Memory} {u v a b : Int}
    (hj : j.colour ≠ j.target) (hm : fillMatches j m u v = true) (h : fillMatches j m a b = false) :
    fillMatches j (pixWrite m j.w u v j.colour) a b = false := by
  rw [← Bool.not_eq_true, fillMatches_pixWrite hj (fillMatches_iff.mp hm).1]
  simp [h]

/-- The pixels that matched in `m` and no longer do in `m'`. -/
def repainted (j : FillJob) (m m' : Memory) : Finset (Int × Int) :=
  (bufferPixels j.w j.h).toFinset.filter fun p =>
    fillMatches j m p.1 p.2 = true ∧ fillMatches j m' p.1 p.2 = false

theorem mem_repainted {j : FillJob} {m m' : Memory} {p : Int × Int} :
    p ∈ repainted j m m' ↔ fillMatches j m p.1 p.2 = true ∧ fillMatches j m' p.1 p.2 = false := by
  rw [repainted, Finset.mem_filter, List.mem_toFinset, mem_bufferPixels]
  exact and_iff_right_of_imp fun h => (fillMatches_iff.mp h.1).1

theorem inBounds_of_mem_repainted {j : FillJob} {m m' : Memory} {p : Int × Int}
    (hp : p ∈ repainted j m m') : inBounds j.w j.h p.1 p.2 = true :=
  (fillMatches_iff.mp (mem_repainted.mp hp).1).1

theorem repainted_self (j : FillJob) (m : Memory) : repainted j m m = ∅ := by
  ext p
  simp [mem_repainted]

theorem repainted_pixWrite {j : FillJob} {m m' : Memory} {u v : Int} (hj : j.colour ≠ j.target)
    (h0 : fillMatches j m u v = true) :
    repainted j m (pixWrite m' j.w u v j.colour) = insert (u, v) (repainted j m m') := by
  ext p
  rw [Finset.mem_insert, mem_repainted, mem_repainted, ← Bool.not_eq_true,
    fillMatches_pixWrite hj (fillMatches_iff.mp h0).1]
  by_cases hp : p = (u, v)
  · simp [hp, h0]
  · simp [hp]

/-! ### What is painted -/

/-- PIXMEM and `n` in a traversal that began on `m` at (x, y): the repainted pixels are counted, connected
to the seed and in the fill colour, and no other byte has changed. -/
structure PaintsInComponent (j : FillJob) (m : Memory) (x y : Int) (t : Traversal) : Prop where
  matched : ∀ u v, fillMatches j t.mem u v = true → fillMatches j m u v = true
  count : t.n = (repainted j m t.mem).card
  connected : ∀ p ∈ repainted j m t.mem, Component j.w j.h m j.target x y p.1 p.2
  painted : ∀ p ∈ repainted j m t.mem, PixelIs t.mem j.w p.1 p.2 j.colour
  others : ∀ a, (∀ p ∈ repainted j m t.mem, ¬ ByteOf j.w p.1 p.2 a) →
    Memory.read t.mem a = Memory.read m a

theorem PaintsInComponent.start (j : FillJob) (m : Memory) (x y : Int) :
    PaintsInComponent j m x y ⟨m, [], 0⟩ := by
  constructor <;> simp [repainted_self]

theorem PixelIs.pixWrite {w h : Nat} {m : Memory} {x y u v : Int} {c : Colour}
    (hp : PixelIs m w u v c) (hb : inBounds w h x y = true) (hbu : inBounds w h u v = true) :
    PixelIs (pixWrite m w x y c) w u v c := by
  by_cases hsame : u = x ∧ v = y
  · obtain ⟨rfl, rfl⟩ := hsame
    exact pixelIs_pixWrite m w u v c
  · obtain ⟨hrgb, halpha⟩ := pixel_pixWrite_other (m := m) (c := c) hb hbu hsame
    exact ⟨hrgb.trans hp.1, halpha.trans hp.2⟩

/-- Painting a matching pixel of the component counts it once: it was not repainted before. -/
theorem PaintsInComponent.paint {j : FillJob} {m : Memory} {x y u v : Int} {t : Traversal}
    (hj : j.colour ≠ j.target) (ht : PaintsInComponent j m x y t)
    (hm : fillMatches j t.mem u v = true) (hc : Component j.w j.h m j.target x y u v)
    (stk : List (Int × Int)) :
    PaintsInComponent j m x y ⟨pixWrite t.mem j.w u v j.colour, stk, t.n + 1⟩ := by
  have hb : inBounds j.w j.h u v = true := (fillMatches_iff.mp hm).1
  have hset := repainted_pixWrite (m' := t.mem) hj (ht.matched u v hm)
  have hnew : (u, v) ∉ repainted j m t.mem := by simp [mem_repainted, hm]
  refine ⟨fun a b hab => ht.matched a b ((fillMatches_pixWrite hj hb).mp hab).1, ?_, ?_, ?_, ?_⟩ <;>
    simp only [hset]
  case refine_1 => rw [Finset.card_insert_of_notMem hnew, ht.count]
  case refine_2 => exact Finset.forall_mem_insert _ _ _ |>.mpr ⟨hc, ht.connected⟩
  case refine_3 =>
    exact Finset.forall_mem_insert _ _ _ |>.mpr ⟨pixelIs_pixWrite _ _ _ _ _,
      fun p hp => (ht.painted p hp).pixWrite hb (inBounds_of_mem_repainted hp)⟩
  case refine_4 =>
    intro a ha
    obtain ⟨huv, hrest⟩ := Finset.forall_mem_insert _ _ _ |>.mp ha
    exact (read_pixWrite_other huv).trans (ht.others a hrest)

/-- A matching neighbour of a repainted pixel is in the component (R116). -/
theorem PaintsInComponent.spread {j : FillJob} {m : Memory} {x y u v u' v' : Int} {t : Traversal}
    (ht : PaintsInComponent j m x y t) (hp : (u, v) ∈ repainted j m t.mem)
    (hnear : Neighbour u v u' v') (hm : fillMatches j t.mem u' v' = true) :
    Component j.w j.h m j.target x y u' v' := by
  obtain ⟨hb, htarget⟩ := fillMatches_iff.mp (ht.matched u' v' hm)
  exact (ht.connected _ hp).spread hnear hb htarget

/-! ### What is still to be processed -/

/-- No neighbour of the pixel matches. -/
def Settled (j : FillJob) (m : Memory) (u v : Int) : Prop :=
  ∀ u' v', Neighbour u v u' v' → fillMatches j m u' v' = false

/-- A traversal within the component whose unfinished pixels are those on STK and those of `pending`:
every other repainted pixel is settled (R120). -/
structure FillProgress (j : FillJob) (m : Memory) (x y : Int) (pending : Set (Int × Int))
    (t : Traversal) : Prop extends PaintsInComponent j m x y t where
  unfinished : ∀ p, p ∈ t.stk ∨ p ∈ pending → p ∈ repainted j m t.mem
  settled : ∀ p ∈ repainted j m t.mem, (p ∈ t.stk ∨ p ∈ pending) ∨ Settled j t.mem p.1 p.2

section
variable {j : FillJob} {m : Memory} {x y u v : Int} {pending pending' : Set (Int × Int)}
  {t t' : Traversal}

theorem FillProgress.start (j : FillJob) (m : Memory) (x y : Int) :
    FillProgress j m x y ∅ ⟨m, [], 0⟩ :=
  ⟨.start j m x y, by simp, by simp [repainted_self]⟩

/-- A painted pixel joins the unfinished ones, on STK or among those of `pending'`; the others stay
unfinished or settled. -/
theorem FillProgress.paint (hj : j.colour ≠ j.target) (ht : FillProgress j m x y pending t)
    (hm : fillMatches j t.mem u v = true) (hc : Component j.w j.h m j.target x y u v)
    {stk' : List (Int × Int)}
    (hjoin : ∀ p, p ∈ stk' ∨ p ∈ pending' ↔ p = (u, v) ∨ p ∈ t.stk ∨ p ∈ pending) :
    FillProgress j m x y pending' ⟨pixWrite t.mem j.w u v j.colour, stk', t.n + 1⟩ := by
  have hset := repainted_pixWrite (m' := t.mem) hj (ht.matched u v hm)
  refine ⟨ht.toPaintsInComponent.paint hj hm hc stk', fun p hp => ?_, fun p hp => ?_⟩
  · rw [hset, Finset.mem_insert]
    exact ((hjoin p).mp hp).imp_right (ht.unfinished p)
  · rw [hset, Finset.mem_insert] at hp
    rw [hjoin]
    rcases hp with hnew | hp
    · exact .inl (.inl hnew)
    · exact (ht.settled p hp).imp .inr fun hs a b hab =>
        fillMatches_pixWrite_of_false hj hm (hs a b hab)

/-- A popped pixel is pending instead of stacked. -/
theorem FillProgress.pop {p : Int × Int} {rest : List (Int × Int)}
    (ht : FillProgress j m x y ∅ t) (hs : t.stk = p :: rest) :
    FillProgress j m x y {p} { t with stk := rest } := by
  have hsame : ∀ q, q ∈ rest ∨ q ∈ ({p} : Set (Int × Int)) ↔
      q ∈ t.stk ∨ q ∈ (∅ : Set (Int × Int)) := fun q => by simp [hs, or_comm]
  refine ⟨{ ht.toPaintsInComponent with }, fun q hq => ht.unfinished q ((hsame q).mp hq),
    fun q hq => ?_⟩
  rw [hsame]
  exact ht.settled q hq

/-- A pending pixel may be dropped when it is settled. -/
theorem FillProgress.settle (ht : FillProgress j m x y pending t) (hsub : pending' ⊆ pending)
    (h : ∀ p ∈ pending, p ∈ pending' ∨ Settled j t.mem p.1 p.2) :
    FillProgress j m x y pending' t := by
  refine ⟨ht.toPaintsInComponent, fun p hp => ht.unfinished p (hp.imp_right (@hsub p)),
    fun p hp => ?_⟩
  rcases ht.settled p hp with (hstk | hpend) | hset
  · exact .inl (.inl hstk)
  · exact (h p hpend).imp_left .inr
  · exact .inr hset

/-- With nothing left to process, the repainted pixels are exactly the component (R120): they hold the
seed and are closed under the second property of R116. -/
theorem FillProgress.mem_repainted_iff (ht : FillProgress j m x y ∅ t) (hstk : t.stk = [])
    (hseed : (x, y) ∈ repainted j m t.mem) :
    (u, v) ∈ repainted j m t.mem ↔ Component j.w j.h m j.target x y u v := by
  refine ⟨ht.connected (u, v), fun hc => ?_⟩
  induction hc with
  | seed => exact hseed
  | spread _ hnear hb htarget ih =>
    rcases ht.settled _ ih with hs | hs
    · simp [hstk] at hs
    · exact mem_repainted.mpr ⟨fillMatches_iff.mpr ⟨hb, htarget⟩, hs _ _ hnear⟩

end

/-! ### The loops of the traversal -/

/-- The columns `a` to `b` of row `y`; none when `b < a`. -/
def rowSpan (y a b : Int) : Set (Int × Int) := {p | p.2 = y ∧ a ≤ p.1 ∧ p.1 ≤ b}

theorem mem_rowSpan {y a b : Int} {p : Int × Int} :
    p ∈ rowSpan y a b ↔ p.2 = y ∧ a ≤ p.1 ∧ p.1 ≤ b := Iff.rfl

/-- `e` is reached from `a` by steps of `dir`. -/
def Ahead (dir a e : Int) : Prop := (dir = -1 ∧ e ≤ a) ∨ (dir = 1 ∧ a ≤ e)

section
variable {j : FillJob} {m : Memory} {x y : Int} {t t' : Traversal}

/-- An extension paints the span up to a column whose next one does not match; `fuel` does not end it,
since the column it would then stand at is out of bounds. -/
theorem extendSpan_progress (hj : j.colour ≠ j.target) {py dir a e : Int} {fuel : Nat}
    (hdir : Ahead dir a e) (hfuel : inBounds j.w j.h (e + dir * (fuel + 1)) py = false)
    (ht : FillProgress j m x y (rowSpan py (min a e) (max a e)) t) :
    let r := extendSpan j py dir fuel e t
    FillProgress j m x y (rowSpan py (min a r.1) (max a r.1)) r.2 ∧ Ahead dir a r.1 ∧
      fillMatches j r.2.mem (r.1 + dir) py = false := by
  induction fuel generalizing e t with
  | zero =>
    refine ⟨ht, hdir, ?_⟩
    have hnext : inBounds j.w j.h (e + dir) py = false := by simpa using hfuel
    simp [extendSpan, fillMatches, hnext]
  | succ fuel ih =>
    rw [extendSpan]
    split
    case isFalse hm => exact ⟨ht, hdir, Bool.eq_false_of_not_eq_true hm⟩
    case isTrue hm =>
      have hnear : Neighbour e py (e + dir) py := by
        rcases hdir with ⟨rfl, _⟩ | ⟨rfl, _⟩
        · exact .inr (.inl ⟨by omega, rfl⟩)
        · exact .inl ⟨rfl, rfl⟩
      have he : (e, py) ∈ repainted j m t.mem :=
        ht.unfinished _ (.inr ⟨rfl, min_le_right a e, le_max_right a e⟩)
      have hspan : ∀ p, p ∈ rowSpan py (min a (e + dir)) (max a (e + dir)) ↔
          p = (e + dir, py) ∨ p ∈ rowSpan py (min a e) (max a e) := fun p => by
        simp only [mem_rowSpan, Prod.ext_iff]
        unfold Ahead at hdir
        omega
      refine ih ?_ ?_ (ht.paint hj hm (ht.spread he hnear hm) fun p =>
        (or_congr_right (hspan p)).trans or_left_comm)
      · unfold Ahead at hdir ⊢
        omega
      · rw [show e + dir + dir * ((fuel : Int) + 1) = e + dir * ((fuel + 1 : Nat) + 1) by
          push_cast; ring]
        exact hfuel

/-- A visit pushes the pixel or finds that it does not match; it does not match afterwards. -/
theorem fillVisit_progress (hj : j.colour ≠ j.target) {pending : Set (Int × Int)} {u v u' v' : Int}
    (ht : FillProgress j m x y pending t) (hp : (u, v) ∈ pending) (hnear : Neighbour u v u' v')
    (h : fillVisit j u' v' t = .ok t') :
    FillProgress j m x y pending t' ∧ fillMatches j t'.mem u' v' = false := by
  unfold fillVisit at h
  split at h
  case isFalse hm =>
    cases h
    exact ⟨ht, Bool.eq_false_of_not_eq_true hm⟩
  case isTrue hm =>
    rcases fillPush_cases j u' v' t with ⟨_, he⟩ | ⟨_, he⟩
    · rw [he] at h
      cases h
      have hc := ht.spread (ht.unfinished _ (.inr hp)) hnear hm
      refine ⟨ht.paint hj hm hc fun p => by rw [List.mem_cons, or_assoc], ?_⟩
      simp [← Bool.not_eq_true, fillMatches_pixWrite hj (fillMatches_iff.mp hm).1]
    · rw [he] at h
      cases h

/-- A visit makes no pixel match. -/
theorem fillVisit_keeps_false (hj : j.colour ≠ j.target) {u v a b : Int}
    (h : fillVisit j u v t = .ok t') (hab : fillMatches j t.mem a b = false) :
    fillMatches j t'.mem a b = false :=
  fillVisit_induct (P := fun t => fillMatches j t.mem a b = false)
    (fun _ _ _ ht hm _ => fillMatches_pixWrite_of_false hj hm ht) hab h

/-- The scan settles the columns of a span one by one, when no pixel of its row, its two ends included,
matches. -/
theorem scanSpan_progress (hj : j.colour ≠ j.target) {py u : Int} {len : Nat}
    (ht : FillProgress j m x y (rowSpan py u (u + len - 1)) t)
    (hrow : ∀ c, u - 1 ≤ c → c ≤ u + len → fillMatches j t.mem c py = false)
    (h : scanSpan j py len u t = .ok t') : FillProgress j m x y ∅ t' := by
  induction len generalizing u t with
  | zero =>
    cases h
    refine ht.settle (Set.empty_subset _) fun p hp => ?_
    obtain ⟨_, hlo, hhi⟩ := mem_rowSpan.mp hp
    omega
  | succ len ih =>
    rw [scanSpan] at h
    split at h
    · cases h
    rename_i above habove
    split at h
    · cases h
    rename_i below hbelow
    have hu : (u, py) ∈ rowSpan py u (u + (len + 1 : Nat) - 1) :=
      mem_rowSpan.mpr ⟨rfl, le_rfl, by omega⟩
    obtain ⟨hprogress, hup⟩ :=
      fillVisit_progress hj ht hu (.inr (.inr (.inr ⟨rfl, rfl⟩))) habove
    obtain ⟨hprogress, hdown⟩ :=
      fillVisit_progress hj hprogress hu (.inr (.inr (.inl ⟨rfl, rfl⟩))) hbelow
    replace hup := fillVisit_keeps_false hj hbelow hup
    have hrow' : ∀ c, u - 1 ≤ c → c ≤ u + (len + 1 : Nat) → fillMatches j below.mem c py = false :=
      fun c hlo hhi =>
        fillVisit_keeps_false hj hbelow (fillVisit_keeps_false hj habove (hrow c hlo hhi))
    have hdone : Settled j below.mem u py := by
      rintro u' v' (⟨rfl, rfl⟩ | ⟨rfl, rfl⟩ | ⟨rfl, rfl⟩ | ⟨rfl, rfl⟩)
      · exact hrow' _ (by omega) (by omega)
      · exact hrow' _ (by omega) (by omega)
      · exact hdown
      · exact hup
    refine ih (hprogress.settle (fun p hp => ?_) fun p hp => ?_)
      (fun c hlo hhi => hrow' c (by omega) (by omega)) h
    · obtain ⟨hy, hlo, hhi⟩ := mem_rowSpan.mp hp
      exact mem_rowSpan.mpr ⟨hy, by omega, by omega⟩
    · obtain ⟨hy, hlo, hhi⟩ := mem_rowSpan.mp hp
      by_cases hpu : p.1 = u
      · exact .inr (by rw [hpu, hy]; exact hdone)
      · exact .inl (mem_rowSpan.mpr ⟨hy, by omega, by omega⟩)

theorem rowSpan_self (u v : Int) : rowSpan v (min u u) (max u u) = {(u, v)} := by
  ext p
  simp only [Set.mem_singleton_iff, mem_rowSpan, Prod.ext_iff]
  omega

/-- The two extensions paint the span of a popped pixel; no pixel of it matches, nor do the next ones at
its two ends. -/
theorem extendSpan_both_progress (hj : j.colour ≠ j.target) {px py : Int}
    (ht : FillProgress j m x y {(px, py)} t) :
    let left := extendSpan j py (-1) j.w px t
    let right := extendSpan j py 1 j.w px left.2
    FillProgress j m x y (rowSpan py left.1 right.1) right.2 ∧ left.1 ≤ right.1 ∧
      ∀ c, left.1 - 1 ≤ c → c ≤ right.1 + 1 → fillMatches j right.2.mem c py = false := by
  intro left right
  have hb := inBounds_iff.mp (inBounds_of_mem_repainted (ht.unfinished _ (.inr rfl)))
  have hout : ∀ c : Int, c < 0 ∨ j.w ≤ c → inBounds j.w j.h c py = false := fun c hc => by
    rw [← Bool.not_eq_true, inBounds_iff]
    omega
  obtain ⟨hleft, hxl, hendL⟩ : FillProgress j m x y
      (rowSpan py (min px left.1) (max px left.1)) left.2 ∧
      Ahead (-1) px left.1 ∧ fillMatches j left.2.mem (left.1 + -1) py = false :=
    extendSpan_progress hj (.inl ⟨rfl, le_rfl⟩) (hout _ (by omega)) (rowSpan_self px py ▸ ht)
  replace hxl : left.1 ≤ px := by unfold Ahead at hxl; omega
  rw [min_comm, max_comm] at hleft
  obtain ⟨hright, hxr, hendR⟩ : FillProgress j m x y
      (rowSpan py (min left.1 right.1) (max left.1 right.1)) right.2 ∧
      Ahead 1 left.1 right.1 ∧ fillMatches j right.2.mem (right.1 + 1) py = false :=
    extendSpan_progress hj (.inr ⟨rfl, hxl⟩) (hout _ (by omega)) hleft
  replace hxr : left.1 ≤ right.1 := by unfold Ahead at hxr; omega
  replace hendL : fillMatches j right.2.mem (left.1 + -1) py = false :=
    extendSpan_induct (P := fun t => fillMatches j t.mem (left.1 + -1) py = false)
      (fun _ _ _ ht hm => fillMatches_pixWrite_of_false hj hm ht) py 1 j.w px left.2 hendL
  rw [min_eq_left hxr, max_eq_right hxr] at hright
  refine ⟨hright, hxr, fun c hlo hhi => ?_⟩
  rcases (by omega : c = left.1 + -1 ∨ c = right.1 + 1 ∨ left.1 ≤ c ∧ c ≤ right.1) with
    rfl | rfl | ⟨hlo, hhi⟩
  · exact hendL
  · exact hendR
  · exact (mem_repainted.mp (hright.unfinished (c, py) (.inr ⟨rfl, hlo, hhi⟩))).2

/-- One turn of the loop settles the popped pixel and the span around it. -/
theorem fillPopped_progress (hj : j.colour ≠ j.target) {px py : Int}
    (ht : FillProgress j m x y {(px, py)} t) (h : fillPopped j px py t = .ok t') :
    FillProgress j m x y ∅ t' := by
  obtain ⟨hspan, hle, hrow⟩ := extendSpan_both_progress hj ht
  have hlen : ∀ a b : Int, a ≤ b → a + (b - a + 1).toNat - 1 = b := by omega
  exact scanSpan_progress hj (by rwa [hlen _ _ hle])
    (fun c hlo hhi => hrow c hlo (by have := hlen _ _ hle; omega)) h

theorem fillLoop_progress (hj : j.colour ≠ j.target) {fuel : Nat} (ht : FillProgress j m x y ∅ t)
    (h : fillLoop j fuel t = .ok t') : FillProgress j m x y ∅ t' := by
  induction fuel generalizing t with
  | zero =>
    rw [fillLoop] at h
    split at h <;> cases h
    exact ht
  | succ fuel ih =>
    rw [fillLoop] at h
    split at h
    · cases h
      exact ht
    · rename_i px py rest hs
      simp only at h
      split at h
      · cases h
      · rename_i turned hturn
        exact ih (fillPopped_progress hj (ht.pop hs) hturn) h

theorem fillTraverse_progress (hj : j.colour ≠ j.target) (hseed : fillMatches j m x y = true)
    (h : fillTraverse j x y m [] = .ok t) : FillProgress j m x y ∅ t := by
  unfold fillTraverse at h
  rcases fillPush_cases j x y ⟨m, [], 0⟩ with ⟨_, he⟩ | ⟨_, he⟩
  · rw [he] at h
    exact fillLoop_progress hj
      ((FillProgress.start j m x y).paint hj hseed .seed fun p => by rw [List.mem_cons, or_assoc]) h
  · rw [he] at h
    cases h

/-- A finished traversal has repainted its seed. -/
theorem fillTraverse_seed_repainted (hj : j.colour ≠ j.target) (hseed : fillMatches j m x y = true)
    (h : fillTraverse j x y m [] = .ok t) : (x, y) ∈ repainted j m t.mem := by
  have hrgb := fillTraverse_seed (fillMatches_iff.mp hseed).1 h
  exact mem_repainted.mpr ⟨hseed, by simp [fillMatches, hrgb, hj]⟩

end

/-! ### The command -/

/-- A FILL that draws: its traversal ends, and FILLCNT is the number of pixels repainted (R115, R118). -/
theorem fillAt_draws {x y : Int} {c : Colour} {s : State}
    (hcap : s.cur.w.toNat * s.cur.h.toNat < 2 ^ 32)
    (hroom : s.cur.w.toNat * s.cur.h.toNat ≤ s.params.stackDepth) (hstk : s.stk = [])
    (hb : inBounds s.cur.w.toNat s.cur.h.toNat x y = true)
    (hne : rgbAt s.pixmem s.cur.w.toNat x y ≠ c) :
    ∃ tr, fillTraverse (fillJob x y c s) x y s.pixmem [] = .ok tr ∧ 1 ≤ tr.n ∧
      (BitVec.ofNat 32 tr.n).toNat = tr.n ∧
      fillAt x y c s =
        .next { s with pixmem := tr.mem, changed := true, fillCnt := BitVec.ofNat 32 tr.n } := by
  have hj : (fillJob x y c s).colour ≠ (fillJob x y c s).target := Ne.symm hne
  have hseed : fillMatches (fillJob x y c s) s.pixmem x y = true := fillMatches_iff.mpr ⟨hb, rfl⟩
  obtain ⟨tr, htr⟩ := fillTraverse_answers (j := fillJob x y c s) hj hroom hseed
  have hcount : tr.n ≤ s.cur.w.toNat * s.cur.h.toNat := fillTraverse_count_le hj hseed htr
  have hpos : 1 ≤ tr.n := (fillTraverse_progress hj hseed htr).count ▸
    Finset.card_pos.mpr ⟨_, fillTraverse_seed_repainted hj hseed htr⟩
  refine ⟨tr, htr, hpos, ?_, ?_⟩
  · rw [BitVec.toNat_ofNat, Nat.mod_eq_of_lt (by omega)]
  · simp [fillAt, hb, hne, hstk, htr, setFillResult, hpos, fillTraverse_stk htr]

/-- Settles O15: the two no-op paths of R115, and otherwise the pixels that the traversal repainted. -/
theorem fillPaintsItsComponent : Obligations.FillPaintsItsComponent := by
  intro x y co c s hlegal hstk hok hr W H X Y T
  split
  case isTrue hnoop => exact fillWithoutEffect x y co c s hok hr hnoop
  case isFalse hdraws =>
    obtain ⟨hb, hne⟩ := not_or.mp hdraws
    rw [Bool.not_eq_false] at hb
    obtain ⟨-, -, -, -, hmax, -, -, hroom⟩ := hlegal
    obtain ⟨-, -, -, -, hcap⟩ := configOk_iff.mp hok
    obtain ⟨tr, htr, hpos, hcnt, hfill⟩ :=
      fillAt_draws (by omega) (hcap.trans hroom) hstk hb hne
    have hj : (fillJob X Y c s).colour ≠ (fillJob X Y c s).target := Ne.symm hne
    have hseed : fillMatches (fillJob X Y c s) s.pixmem X Y = true := fillMatches_iff.mpr ⟨hb, rfl⟩
    have hprogress := fillTraverse_progress hj hseed htr
    have hlen : (repainted (fillJob X Y c s) s.pixmem tr.mem).toList.length = tr.n := by
      rw [Finset.length_toList, hprogress.count]
    refine ⟨_, (repainted (fillJob X Y c s) s.pixmem tr.mem).toList,
      (exec_fill_of_checks hok hr x y).trans hfill, Finset.nodup_toList _, fun p => ?_,
      hpos.trans_eq hlen.symm, hcnt.trans hlen.symm, rfl, fun p hp => ?_, fun a ha => ?_⟩
    · rw [Finset.mem_toList]
      exact hprogress.mem_repainted_iff (fillTraverse_stk htr)
        (fillTraverse_seed_repainted hj hseed htr)
    · exact hprogress.painted p (Finset.mem_toList.mp hp)
    · exact hprogress.others a fun p hp => ha p (Finset.mem_toList.mpr hp)

end Sys2Proof.Machine
end

section
/-! PROOFS. The stamp of a LINE (42_line.md R136, R138, R145): the classes of its cells. -/

namespace Sys2Proof.Machine

/-- Settles O57: the tests of `Class` in order; an INTERIOR cell passes the first one, since
`(r - 2)^2 <= r^2` for `r >= 3`. -/
theorem stampClassThresholds : Obligations.StampClassThresholds := by
  intro r i j d2
  have hinside : 3 ≤ r → ((r : Int) - 2) ^ 2 ≤ (r : Int) ^ 2 := fun hr => by nlinarith
  have hclass : cellClass r i j = if d2 > (r : Int) ^ 2 then .outside
    else if 3 ≤ r ∧ d2 < ((r : Int) - 2) ^ 2 then .interior else .edge := rfl
  rw [hclass]
  split_ifs <;> simp only [true_iff, false_iff] <;> omega

/-- Settles O25: `d2` adds the squares of the two offsets. -/
theorem stampIsSymmetric : Obligations.StampIsSymmetric := by
  intro r i j
  unfold cellClass
  rw [add_comm]

/-- In a dot the cells of both inner classes are painted: those of the disc (R145). -/
theorem cellChosen_dot_iff {r i j : Nat} {dot : Prop} (hdot : dot) :
    CellChosen r dot i j ↔ i < stampSide r ∧ j < stampSide r ∧
      ((i : Int) - r) ^ 2 + ((j : Int) - r) ^ 2 ≤ (r : Int) ^ 2 := by
  obtain ⟨houtside, -, -⟩ := stampClassThresholds r i j
  have hinside := not_congr houtside
  rw [gt_iff_lt, not_lt] at hinside
  rw [← hinside, CellChosen]
  cases cellClass r i j <;> simp [hdot]

theorem stampSide_of_pos {r : Nat} (hr : r ≠ 0) : stampSide r = 2 * r := if_neg hr

/-- The stamp of radius 0 has its centre alone (R135), an EDGE cell. -/
theorem cellChosen_zero_iff {dot : Prop} {i j : Nat} : CellChosen 0 dot i j ↔ i = 0 ∧ j = 0 := by
  have hedge : cellClass 0 0 0 = .edge := rfl
  simp only [CellChosen, stampSide, if_true, Nat.lt_one_iff]
  constructor
  · rintro ⟨hi, hj, -⟩
    exact ⟨hi, hj⟩
  · rintro ⟨rfl, rfl⟩
    exact ⟨rfl, rfl, .inl hedge⟩

/-- No cell lies more than `r` from the centre on an axis (R135). -/
theorem CellChosen.offsets {r i j : Nat} {dot : Prop} (hc : CellChosen r dot i j) :
    i ≤ 2 * r ∧ j ≤ 2 * r := by
  obtain ⟨hi, hj, -⟩ := hc
  have hside : stampSide r ≤ 2 * r + 1 := by unfold stampSide; split <;> omega
  omega

end Sys2Proof.Machine
end

section
/-! PROOFS. The Bresenham trace (42_line.md R139, R140). The walk has a closed form: its point after `n`
steps is `n` steps along the longer axis, and along the shorter one the number of steps nearest to
`n` times the slope. Every property of R140 is read off that form. -/

namespace Sys2Proof.Machine

/-! ### Steps along the two axes -/

/-- The steps along the shorter axis, of length `short`, after `n` steps along the longer one:
`n * short / long` rounded to the nearest, a tie downwards. -/
def minorSteps (long short n : Nat) : Nat := (2 * n * short + long - 1) / (2 * long)

/-- The steps along x and along y after `n` iterations of the loop of R139. -/
def traceSteps (dx dy n : Nat) : Nat × Nat :=
  if dy ≤ dx then (n, minorSteps dx dy n) else (minorSteps dy dx n, n)

section
variable {long short n : Nat}

theorem le_minorSteps_iff (hpos : 0 < long) {q : Nat} :
    q ≤ minorSteps long short n ↔ 2 * (q * long) < 2 * (n * short) + long := by
  rw [minorSteps, Nat.le_div_iff_mul_le (by omega), mul_left_comm q, mul_assoc]
  omega

theorem minorSteps_lt_iff (hpos : 0 < long) {q : Nat} :
    minorSteps long short n < q ↔ 2 * (n * short) + long ≤ 2 * (q * long) := by
  rw [← not_le, le_minorSteps_iff hpos, not_lt]

theorem minorSteps_zero (long short : Nat) : minorSteps long short 0 = 0 := by
  rcases Nat.eq_zero_or_pos long with rfl | hpos
  · simp [minorSteps]
  · have := (minorSteps_lt_iff (short := short) (n := 0) hpos (q := 1)).mpr (by omega)
    omega

theorem minorSteps_le (hshort : short ≤ long) : minorSteps long short n ≤ n := by
  rcases Nat.eq_zero_or_pos long with rfl | hpos
  · simp [minorSteps]
  · have hmul : n * short ≤ n * long := Nat.mul_le_mul_left n hshort
    rw [← Nat.lt_add_one_iff, minorSteps_lt_iff hpos, Nat.add_one_mul n]
    omega

theorem minorSteps_mono {n' : Nat} (h : n ≤ n') :
    minorSteps long short n ≤ minorSteps long short n' := by
  unfold minorSteps
  gcongr

theorem minorSteps_end (hshort : short ≤ long) : minorSteps long short long = short := by
  rcases Nat.eq_zero_or_pos long with rfl | hpos
  · simp [minorSteps, Nat.le_zero.mp hshort]
  · have hcomm : long * short = short * long := mul_comm long short
    apply le_antisymm
    · rw [← Nat.lt_add_one_iff, minorSteps_lt_iff hpos, Nat.add_one_mul short]
      omega
    · rw [le_minorSteps_iff hpos]
      omega

theorem minorSteps_succ_le (hpos : 0 < long) (hshort : short ≤ long) :
    minorSteps long short (n + 1) ≤ minorSteps long short n + 1 := by
  have hnow := (minorSteps_lt_iff (short := short) (n := n) hpos).mp (Nat.lt_add_one _)
  rw [← Nat.lt_add_one_iff, minorSteps_lt_iff hpos, Nat.add_one_mul n,
    Nat.add_one_mul (minorSteps long short n + 1)]
  omega

/-- The test of the shorter axis (R139): it steps exactly when its next point is the nearer one. -/
theorem minorSteps_succ (hpos : 0 < long) (hshort : short ≤ long) {test : Prop} [Decidable test]
    (htest : test ↔
      2 * ((minorSteps long short n + 1) * long) < 2 * ((n + 1) * short) + long) :
    minorSteps long short (n + 1) = minorSteps long short n + if test then 1 else 0 := by
  rw [← le_minorSteps_iff hpos] at htest
  have hmono : minorSteps long short n ≤ minorSteps long short (n + 1) :=
    minorSteps_mono n.le_succ
  have hone := minorSteps_succ_le (n := n) hpos hshort
  split_ifs with h
  · exact le_antisymm hone (htest.mp h)
  · have := mt htest.mpr h
    omega

/-- The test of the longer axis (R139): it always steps. With equal axes the two counts agree, so that
no tie arises. -/
theorem majorSteps_test (hpos : 0 < long) (hshort : short ≤ long) :
    2 * ((n + 1) * short) < 2 * ((minorSteps long short n + 1) * long) + short := by
  have hnow := (minorSteps_lt_iff (short := short) (n := n) hpos).mp (Nat.lt_add_one _)
  rcases hshort.lt_or_eq with hlt | rfl
  · rw [Nat.add_one_mul n]
    omega
  · have hall : n ≤ minorSteps short short n := (le_minorSteps_iff hpos).mpr (by omega)
    have := Nat.mul_le_mul_right short (Nat.add_le_add_right hall 1)
    omega

end

section
variable {dx dy n : Nat}

theorem traceSteps_zero (dx dy : Nat) : traceSteps dx dy 0 = (0, 0) := by
  unfold traceSteps
  split <;> simp [minorSteps_zero]

theorem traceSteps_end (dx dy : Nat) : traceSteps dx dy (max dx dy) = (dx, dy) := by
  unfold traceSteps
  split
  case isTrue h => rw [max_eq_left h, minorSteps_end h]
  case isFalse h =>
    have hle : dx ≤ dy := by omega
    rw [max_eq_right hle, minorSteps_end hle]

/-- One axis has stepped every time: so no point comes twice. -/
theorem max_traceSteps (dx dy n : Nat) : max (traceSteps dx dy n).1 (traceSteps dx dy n).2 = n := by
  unfold traceSteps
  split
  case isTrue h => exact max_eq_left (minorSteps_le h)
  case isFalse h => exact max_eq_right (minorSteps_le (by omega))

theorem traceSteps_injective (dx dy : Nat) : Function.Injective (traceSteps dx dy) := by
  intro n n' h
  rw [← max_traceSteps dx dy n, h, max_traceSteps]

theorem traceSteps_mono {n' : Nat} (h : n ≤ n') :
    (traceSteps dx dy n).1 ≤ (traceSteps dx dy n').1 ∧
      (traceSteps dx dy n).2 ≤ (traceSteps dx dy n').2 := by
  unfold traceSteps
  split
  · exact ⟨h, minorSteps_mono h⟩
  · exact ⟨minorSteps_mono h, h⟩

theorem traceSteps_le (h : n ≤ max dx dy) :
    (traceSteps dx dy n).1 ≤ dx ∧ (traceSteps dx dy n).2 ≤ dy := by
  simpa only [traceSteps_end] using traceSteps_mono (dx := dx) (dy := dy) h

/-- The error term of R139 after `n` iterations. -/
def traceErr (dx dy n : Nat) : Int :=
  ((traceSteps dx dy n).2 + 1) * dx - ((traceSteps dx dy n).1 + 1) * dy

theorem traceErr_zero (dx dy : Nat) : traceErr dx dy 0 = dx - dy := by
  simp [traceErr, traceSteps_zero]

/-- The two tests of R139 decide the two steps. -/
theorem traceSteps_succ (h : 0 < max dx dy) :
    (traceSteps dx dy (n + 1)).1 =
        (traceSteps dx dy n).1 + (if 2 * traceErr dx dy n > -dy then 1 else 0) ∧
      (traceSteps dx dy (n + 1)).2 =
        (traceSteps dx dy n).2 + (if 2 * traceErr dx dy n < dx then 1 else 0) := by
  unfold traceErr traceSteps
  split
  case isTrue hle =>
    have hpos : 0 < dx := by omega
    have hmajor := majorSteps_test (n := n) hpos hle
    zify at hmajor
    exact ⟨by rw [if_pos (by linarith)],
      minorSteps_succ hpos hle (by zify; constructor <;> intro <;> linarith)⟩
  case isFalse hlt =>
    have hpos : 0 < dy := by omega
    have hle : dx ≤ dy := by omega
    have hmajor := majorSteps_test (n := n) hpos hle
    zify at hmajor
    exact ⟨minorSteps_succ hpos hle (by zify; constructor <;> intro <;> linarith),
      by rw [if_pos (by linarith)]⟩

/-- The updates of the error term (R139). -/
theorem traceErr_succ (h : 0 < max dx dy) :
    traceErr dx dy (n + 1) = traceErr dx dy n -
      (if 2 * traceErr dx dy n > -dy then 1 else 0) * dy +
      (if 2 * traceErr dx dy n < dx then 1 else 0) * dx := by
  obtain ⟨hx, hy⟩ := traceSteps_succ (n := n) h
  have herr : ∀ k, traceErr dx dy k =
      ((traceSteps dx dy k).2 + 1) * dx - ((traceSteps dx dy k).1 + 1) * dy := fun _ => rfl
  rw [herr (n + 1), hx, hy]
  push_cast
  linear_combination -herr n

end

/-! ### The trace -/

/-- The sign of the steps from `a` to `b` (R139). -/
def stepSign (a b : Int) : Int := if a < b then 1 else -1

theorem stepSign_cases (a b : Int) :
    (stepSign a b = 1 ∧ a + (b - a).natAbs = b) ∨ (stepSign a b = -1 ∧ a - (b - a).natAbs = b) := by
  unfold stepSign
  split <;> omega

theorem stepSign_ne_zero (a b : Int) : stepSign a b ≠ 0 := by
  unfold stepSign
  split <;> omega

theorem add_stepSign_mul (a b : Int) : a + stepSign a b * (b - a).natAbs = b := by
  rcases stepSign_cases a b with ⟨hs, hb⟩ | ⟨hs, hb⟩ <;> rw [hs] <;> omega

/-- One iteration moves by at most 1 on an axis (R140). -/
theorem axis_connected (a b : Int) {p q : Nat} {test : Prop} [Decidable test]
    (hq : q = p + if test then 1 else 0) :
    (a + stepSign a b * q - (a + stepSign a b * p)).natAbs ≤ 1 := by
  have hqp : p ≤ q ∧ q ≤ p + 1 := by split at hq <;> omega
  rcases stepSign_cases a b with ⟨hs, -⟩ | ⟨hs, -⟩ <;> rw [hs] <;> omega

/-- No more steps than the axis is long stay between its ends (R140). -/
theorem axis_in_box {a b : Int} {p : Nat} (hp : p ≤ (b - a).natAbs) :
    min a b ≤ a + stepSign a b * p ∧ a + stepSign a b * p ≤ max a b := by
  rcases stepSign_cases a b with ⟨hs, hb⟩ | ⟨hs, hb⟩ <;> rw [hs] <;> omega

/-- The point `steps` from a first point, with the signs `sx`, `sy`. -/
def pointAfter (xa ya sx sy : Int) (steps : Nat × Nat) : Int × Int :=
  (xa + sx * steps.1, ya + sy * steps.2)

theorem pointAfter_zero (xa ya sx sy : Int) : pointAfter xa ya sx sy (0, 0) = (xa, ya) := by
  simp [pointAfter]

theorem pointAfter_end (xa ya xb yb : Int) :
    pointAfter xa ya (stepSign xa xb) (stepSign ya yb) ((xb - xa).natAbs, (yb - ya).natAbs) =
      (xb, yb) :=
  Prod.ext (add_stepSign_mul xa xb) (add_stepSign_mul ya yb)

section
variable {xa ya xb yb sx sy : Int}

theorem pointAfter_injective (hsx : sx ≠ 0) (hsy : sy ≠ 0) :
    Function.Injective (pointAfter xa ya sx sy) := by
  intro p q h
  obtain ⟨h1, h2⟩ := Prod.mk.inj h
  have hp1 := mul_left_cancel₀ hsx (add_left_cancel h1)
  have hp2 := mul_left_cancel₀ hsy (add_left_cancel h2)
  exact Prod.ext (by exact_mod_cast hp1) (by exact_mod_cast hp2)

/-- One iteration of the loop of R139 that does not end it. -/
theorem traceFrom_step {dx dy x y err : Int} (fuel : Nat) (hrun : ¬ (x = xb ∧ y = yb)) :
    traceFrom dx dy sx sy xb yb (fuel + 1) x y err =
      (x, y) :: traceFrom dx dy sx sy xb yb fuel
        (x + sx * (if 2 * err > -dy then 1 else 0)) (y + sy * (if 2 * err < dx then 1 else 0))
        (err - (if 2 * err > -dy then 1 else 0) * dy + (if 2 * err < dx then 1 else 0) * dx) := by
  rw [traceFrom, if_neg hrun]
  simp only [decide_eq_true_eq, mul_ite, ite_mul, mul_one, mul_zero, one_mul, zero_mul, add_ite,
    add_zero]

/-- The loop of R139 from its iteration `n` on, with `m` iterations left and `fuel` for them. -/
theorem traceFrom_eq_map {dx dy n m fuel : Nat} (hsx : sx ≠ 0) (hsy : sy ≠ 0)
    (hend : pointAfter xa ya sx sy (dx, dy) = (xb, yb)) (hm : n + m = max dx dy) (hf : m ≤ fuel) :
    traceFrom dx dy sx sy xb yb fuel (pointAfter xa ya sx sy (traceSteps dx dy n)).1
        (pointAfter xa ya sx sy (traceSteps dx dy n)).2 (traceErr dx dy n) =
      (List.range' n (m + 1)).map fun k => pointAfter xa ya sx sy (traceSteps dx dy k) := by
  induction m generalizing n fuel with
  | zero =>
    obtain rfl : n = max dx dy := hm
    simp [traceSteps_end, hend, traceFrom_done]
  | succ m ih =>
    obtain ⟨fuel, rfl⟩ := Nat.exists_eq_add_of_le' (Nat.le_of_add_left_le hf)
    have hrun : ¬ ((pointAfter xa ya sx sy (traceSteps dx dy n)).1 = xb ∧
        (pointAfter xa ya sx sy (traceSteps dx dy n)).2 = yb) := by
      intro h
      have hlast := pointAfter_injective hsx hsy ((Prod.ext h.1 h.2).trans hend.symm)
      have := traceSteps_injective dx dy (hlast.trans (traceSteps_end dx dy).symm)
      omega
    have hpos : 0 < max dx dy := by omega
    obtain ⟨hx, hy⟩ := traceSteps_succ (n := n) hpos
    rw [List.range'_succ, List.map_cons, ← ih (n := n + 1) (fuel := fuel) (by omega) (by omega),
      traceFrom_step fuel hrun]
    congr 2
    · simp only [pointAfter, hx]
      push_cast
      ring
    · simp only [pointAfter, hy]
      push_cast
      ring
    · exact (traceErr_succ hpos).symm

/-- The closed form of a trace. -/
theorem trace_eq_map (xa ya xb yb : Int) :
    trace xa ya xb yb =
      (List.range (max (xb - xa).natAbs (yb - ya).natAbs + 1)).map fun n =>
        pointAfter xa ya (stepSign xa xb) (stepSign ya yb)
          (traceSteps (xb - xa).natAbs (yb - ya).natAbs n) := by
  have hsx := stepSign_ne_zero xa xb
  have hsy := stepSign_ne_zero ya yb
  have hwalk := traceFrom_eq_map (n := 0) hsx hsy (pointAfter_end xa ya xb yb) (Nat.zero_add _)
    (fuel := (xb - xa).natAbs + (yb - ya).natAbs) (by omega)
  rw [traceSteps_zero, traceErr_zero, pointAfter_zero] at hwalk
  rw [List.range_eq_range', ← hwalk]
  rfl

/-- Settles O21: the first and the last point of the closed form, and its length. -/
theorem traceRunsEndToEnd : Obligations.TraceRunsEndToEnd := by
  intro xa ya xb yb
  rw [trace_eq_map]
  refine ⟨?_, ?_, by simp⟩
  · simp [List.head?_map, List.head?_range, traceSteps_zero, pointAfter_zero]
  · simp [List.getLast?_map, List.getLast?_range, traceSteps_end, pointAfter_end]

/-- Settles O23: the closed form depends on the endpoints' difference but for its first point. -/
theorem traceTranslates : Obligations.TraceTranslates := by
  intro xa ya xb yb a b
  have hsign : ∀ c d e : Int, stepSign (c + e) (d + e) = stepSign c d := fun c d e => by
    simp [stepSign]
  rw [trace_eq_map, trace_eq_map, List.map_map, add_sub_add_right_eq_sub, add_sub_add_right_eq_sub,
    hsign, hsign]
  refine List.map_congr_left fun n _ => ?_
  simp only [pointAfter, Function.comp_apply, add_right_comm]

theorem trace_nodup (xa ya xb yb : Int) : (trace xa ya xb yb).Nodup := by
  rw [trace_eq_map]
  exact List.nodup_range.map ((pointAfter_injective (stepSign_ne_zero _ _) (stepSign_ne_zero _ _)).comp
    (traceSteps_injective _ _))

theorem trace_connected {n : Nat} {p q : Int × Int} (hp : (trace xa ya xb yb)[n]? = some p)
    (hq : (trace xa ya xb yb)[n + 1]? = some q) :
    (q.1 - p.1).natAbs ≤ 1 ∧ (q.2 - p.2).natAbs ≤ 1 := by
  rw [trace_eq_map] at hp hq
  simp only [List.getElem?_map, Option.map_eq_some_iff, List.getElem?_eq_some_iff, List.length_range,
    List.getElem_range] at hp hq
  obtain ⟨_, ⟨_, rfl⟩, rfl⟩ := hp
  obtain ⟨_, ⟨hn, rfl⟩, rfl⟩ := hq
  obtain ⟨hx, hy⟩ := traceSteps_succ (dx := (xb - xa).natAbs) (dy := (yb - ya).natAbs) (n := n)
    (by omega)
  exact ⟨axis_connected xa xb hx, axis_connected ya yb hy⟩

/-- A trace stays in the box of its endpoints (R140). -/
theorem trace_in_box {p : Int × Int} (hp : p ∈ trace xa ya xb yb) :
    min xa xb ≤ p.1 ∧ p.1 ≤ max xa xb ∧ min ya yb ≤ p.2 ∧ p.2 ≤ max ya yb := by
  rw [trace_eq_map] at hp
  obtain ⟨n, hn, rfl⟩ := List.mem_map.mp hp
  obtain ⟨hx, hy⟩ := traceSteps_le (Nat.lt_succ_iff.mp (List.mem_range.mp hn))
  exact and_assoc.mp ⟨axis_in_box hx, axis_in_box hy⟩

/-- Settles O22. -/
theorem traceIsConnectedInItsBox : Obligations.TraceIsConnectedInItsBox :=
  fun xa ya xb yb => ⟨trace_nodup xa ya xb yb, fun _ _ _ => trace_connected, fun _ => trace_in_box⟩

end

end Sys2Proof.Machine
end

section
/-! PROOFS. A LINE (42_line.md R141, R144 to R146): the points of its stroke, its early-out, and what it
paints. -/

namespace Sys2Proof.Machine

/-! ### The points of a stroke -/

theorem trace_self (x y : Int) : trace x y x y = [(x, y)] := by
  simp [trace, traceFrom_done]

/-- Settles O26: each trace of a dot is its stamp cell (R145). -/
theorem dotIsTheClippedDisc : Obligations.DotIsTheClippedDisc := by
  intro x y r u v
  simp only [OnStroke, trace_self, List.mem_singleton, Prod.mk.injEq, and_self]
  split_ifs with hr
  · subst hr
    simp [cellChosen_zero_iff]
  · simp only [cellChosen_dot_iff trivial, stampSide_of_pos hr]
    constructor
    · rintro ⟨i, j, ⟨hi, hj, hdisc⟩, rfl, rfl⟩
      rw [show x + i - r - x = (i : Int) - r by ring, show y + j - r - y = (j : Int) - r by ring]
      exact ⟨by omega, by omega, by omega, by omega, hdisc⟩
    · rintro ⟨hxl, hxr, hyl, hyr, hdisc⟩
      refine ⟨(u - x + r).toNat, (v - y + r).toNat, ⟨by omega, by omega, ?_⟩, by omega, by omega⟩
      rwa [Int.toNat_of_nonneg (by omega), Int.toNat_of_nonneg (by omega), add_sub_cancel_right,
        add_sub_cancel_right]

/-- Settles O27: the one cell of the stamp lies at the endpoints. -/
theorem widthOneIsThePlainTrace : Obligations.WidthOneIsThePlainTrace := by
  intro x1 y1 x2 y2 u v
  simp [OnStroke, cellChosen_zero_iff]

/-- Every point of a stroke lies within `r` of the box of the endpoints (R144). -/
theorem OnStroke.near_box {x1 y1 x2 y2 : Int} {r : Nat} {u v : Int} (h : OnStroke x1 y1 x2 y2 r u v) :
    min x1 x2 - r ≤ u ∧ u ≤ max x1 x2 + r ∧ min y1 y2 - r ≤ v ∧ v ≤ max y1 y2 + r := by
  obtain ⟨i, j, hc, htrace⟩ := h
  obtain ⟨hi, hj⟩ := hc.offsets
  obtain ⟨hxl, hxr, hyl, hyr⟩ := trace_in_box htrace
  simp only at hxl hxr hyl hyr
  omega

theorem boxEmpty_iff {w h : Nat} {x1 y1 x2 y2 : Int} {width : Nat} :
    boxEmpty w h x1 y1 x2 y2 width = true ↔
      max x1 x2 + width < 0 ∨ (w : Int) - 1 < min x1 x2 - width ∨
      max y1 y2 + width < 0 ∨ (h : Int) - 1 < min y1 y2 - width := by
  simp [boxEmpty, or_assoc]

/-- Settles O24: the stroke lies in the box that the early-out tests. -/
theorem boxEmptyRemovesNothing : Obligations.BoxEmptyRemovesNothing := by
  intro w h x1 y1 x2 y2 width hempty u v hon
  rw [boxEmpty_iff] at hempty
  obtain ⟨hxl, hxr, hyl, hyr⟩ := hon.near_box
  rw [← Bool.not_eq_true, inBounds_iff]
  omega

/-! ### The command -/

theorem brushRadius_eq (width : Byte) : brushRadius width = width.toNat / 2 :=
  Nat.shiftRight_eq_div_pow _ 1

theorem paintClipped_of_outside {w h : Nat} {c : Colour} {l : List (Int × Int)} {m : Memory}
    (hout : ∀ p ∈ l, inBounds w h p.1 p.2 = false) : paintClipped w h c l m = m := by
  induction l with
  | nil => rfl
  | cons p rest ih =>
    obtain ⟨hp, hrest⟩ := List.forall_mem_cons.mp hout
    rw [paintClipped, hp, if_neg Bool.false_ne_true, ih hrest]

/-- The state with the in-bounds points of a stroke painted (R141). -/
def paintStroke (x1 y1 x2 y2 : Int) (r : Nat) (c : Colour) (s : State) : State :=
  { s with pixmem :=
      paintClipped s.cur.w.toNat s.cur.h.toNat c (strokePoints x1 y1 x2 y2 r) s.pixmem }

/-- The early-out changes no result: a LINE always does what its loops do (R144). -/
theorem lineBetween_eq_paintStroke (x1 y1 x2 y2 : Int) (c : Colour) (width : Byte) (s : State) :
    lineBetween x1 y1 x2 y2 c width s = paintStroke x1 y1 x2 y2 (width.toNat / 2) c s := by
  rcases lineBetween_cases x1 y1 x2 y2 c width s with ⟨hempty, he⟩ | ⟨_, he⟩
  · have hout : ∀ p ∈ strokePoints x1 y1 x2 y2 (width.toNat / 2),
        inBounds s.cur.w.toNat s.cur.h.toNat p.1 p.2 = false := fun p hp =>
      boxEmptyRemovesNothing _ _ x1 y1 x2 y2 width hempty p.1 p.2 (mem_strokePoints.mp hp)
    rw [he, paintStroke, paintClipped_of_outside hout]
  · rw [he, brushRadius_eq, paintStroke]

theorem exec_line_of_width {width : Byte} (hw : width ≠ 0#8) (x1 y1 x2 y2 : Coord)
    (co : ColourOperand) (s : State) :
    exec (.line x1 y1 x2 y2 width co) s = withChecks co s fun c => .next (paintStroke
      (coordValue x1) (coordValue y1) (coordValue x2) (coordValue y2) (width.toNat / 2) c s) := by
  simp only [← lineBetween_eq_paintStroke]
  rw [exec, execLine]
  simp only [if_neg hw]

/-- Settles O13: past the checks the loops paint the points of the stroke, and nothing else. -/
theorem linePaintsItsStroke : Obligations.LinePaintsItsStroke := by
  intro x1 y1 x2 y2 width co c s hok hr hw W H On
  exact ⟨_, (exec_line_of_width hw x1 y1 x2 y2 co s).trans (withChecks_draws hok hr), rfl,
    fun u v hb hon => pixelIs_paintClipped hb (mem_strokePoints.mpr hon),
    fun a ha => read_paintClipped_other fun p hp hb => ha p.1 p.2 hb (mem_strokePoints.mp hp)⟩

/-- Settles O28: the two LINEs have the same brush radius, and only their early-outs see the width. -/
theorem oddWidthPaintsTheSame : Obligations.OddWidthPaintsTheSame := by
  intro x1 y1 x2 y2 even odd co s t t' heven hmod hodd h h'
  have hne : odd ≠ 0#8 := by
    rintro rfl
    exact absurd hodd (Nat.succ_ne_zero _).symm
  have hradius : odd.toNat / 2 = even.toNat / 2 := by omega
  rw [exec_line_of_width heven] at h
  rw [exec_line_of_width hne, hradius, h] at h'
  cases h'
  rfl

end Sys2Proof.Machine
end

section
/-! PROOFS. CLEAR and SKIP (43_clear_skip.md R160, R161), and replay (R162): which pixels a command paints
is settled by its operands, CUR and the buffer, so two runs that agree in these keep agreeing. -/

namespace Sys2Proof.Machine

/-! ### SKIP and CLEAR -/

/-- Settles O11: `countSkip`, whose count is an addition of 32-bit words. -/
theorem skipSetsItsFlagAndCounts : Obligations.SkipSetsItsFlagAndCounts :=
  fun _ s => ⟨countSkip s, rfl, rfl, BitVec.toNat_add s.skipCnt 1#32⟩

theorem exec_clear_of_checks {co : ColourOperand} {c : Colour} {s : State}
    (hok : configOk s.params s.cur.w.toNat s.cur.h.toNat = true) (hr : resolveColour co = some c) :
    exec (.clear co) s = .next (clearTo c s) :=
  withChecks_draws hok hr

/-- The list of R160 holds every pixel of the buffer. -/
theorem pixelIs_clearTo {s : State} {u v : Int}
    (hb : inBounds s.cur.w.toNat s.cur.h.toNat u v = true) (c : Colour) :
    PixelIs (clearTo c s).pixmem s.cur.w.toNat u v c :=
  pixelIs_paintClipped hb (mem_bufferPixels.mpr hb)

/-- Settles O12: every pixel of the buffer is painted, and the bytes of these all lie below 4WH. -/
theorem clearPaintsTheWholeBuffer : Obligations.ClearPaintsTheWholeBuffer := by
  intro co c s hok hr
  exact ⟨clearTo c s, exec_clear_of_checks hok hr, rfl, fun u v hb => pixelIs_clearTo hb c,
    fun a ha => read_paintClipped_other fun p _ hb hbyte => Nat.not_lt.mpr ha (hbyte.lt hb)⟩

/-! ### Buffers that hold the same bytes -/

/-- Two memories hold the same bytes `0` to `4wh - 1` (R52, R162). -/
def SameBuffer (w h : Nat) (m n : Memory) : Prop :=
  ∀ a < 4 * (w * h), Memory.read m a = Memory.read n a

theorem SameBuffer.rgbAt_eq {w h : Nat} {m n : Memory} (hmn : SameBuffer w h m n) {u v : Int}
    (hb : inBounds w h u v = true) : rgbAt m w u v = rgbAt n w u v :=
  (rgbAt_congr fun a ha => hmn a (ha.lt hb)).1

/-- A pixel's colour and its A settle its four bytes. -/
theorem PixelIs.read_eq {m n : Memory} {w : Nat} {u v : Int} {c : Colour} {a : Nat}
    (hm : PixelIs m w u v c) (hn : PixelIs n w u v c) (ha : ByteOf w u v a) :
    Memory.read m a = Memory.read n a := by
  have hrgb : rgbAt m w u v = rgbAt n w u v := hm.1.trans hn.1.symm
  have halpha : alphaAt m w u v = alphaAt n w u v := hm.2.trans hn.2.symm
  obtain ⟨k, hk, rfl⟩ := ha
  interval_cases k
  · exact congrArg Colour.r hrgb
  · exact congrArg Colour.g hrgb
  · exact congrArg Colour.b hrgb
  · exact halpha

/-- Every byte below `4wh` belongs to a pixel of the buffer (R52). -/
theorem exists_byteOf {w h a : Nat} (ha : a < 4 * (w * h)) :
    ∃ u v, inBounds w h u v = true ∧ ByteOf w u v a := by
  have hpixel : a / 4 < w * h := Nat.div_lt_of_lt_mul ha
  have hw : 0 < w := Nat.pos_of_mul_pos_right (Nat.zero_lt_of_lt hpixel)
  have hcol : a / 4 % w < w := Nat.mod_lt _ hw
  have hrow : a / 4 / w < h := Nat.div_lt_of_lt_mul hpixel
  refine ⟨(a / 4 % w : Nat), (a / 4 / w : Nat), inBounds_iff.mpr ⟨Int.natCast_nonneg _,
    Int.ofNat_lt.mpr hcol, Int.natCast_nonneg _, Int.ofNat_lt.mpr hrow⟩, a % 4,
    Nat.mod_lt _ (by decide), ?_⟩
  rw [pixelIndex, Int.toNat_natCast, Int.toNat_natCast, Nat.div_add_mod', Nat.div_add_mod]

/-- Two buffers of one opaque colour hold the same bytes. -/
theorem sameBuffer_of_pixelIs {w h : Nat} {m n : Memory} {c : Colour}
    (hm : ∀ u v, inBounds w h u v = true → PixelIs m w u v c)
    (hn : ∀ u v, inBounds w h u v = true → PixelIs n w u v c) : SameBuffer w h m n := by
  intro a ha
  obtain ⟨u, v, hb, hbyte⟩ := exists_byteOf ha
  exact (hm u v hb).read_eq (hn u v hb) hbyte

/-! ### The pixels a command paints -/

/-- The checks before every draw pass, with the colour `c` (40_dispatch.md R100). -/
def ChecksPass (co : ColourOperand) (c : Colour) (s : State) : Prop :=
  configOk s.params s.cur.w.toNat s.cur.h.toNat = true ∧ resolveColour co = some c

/-- The command paints the pixel (u, v), if it is in bounds, in the colour `c`: a FILL its component, a
LINE its stroke, a CLEAR every pixel (41_fill.md R115, 42_line.md R141, 43_clear_skip.md R160). -/
def Paints (s : State) (c : Colour) (u v : Int) : Instr → Prop
  | .fill x y co => ChecksPass co c s ∧
      inBounds s.cur.w.toNat s.cur.h.toNat (coordValue x) (coordValue y) = true ∧
      rgbAt s.pixmem s.cur.w.toNat (coordValue x) (coordValue y) ≠ c ∧
      Component s.cur.w.toNat s.cur.h.toNat s.pixmem
        (rgbAt s.pixmem s.cur.w.toNat (coordValue x) (coordValue y)) (coordValue x) (coordValue y) u v
  | .line x1 y1 x2 y2 width co => ChecksPass co c s ∧ width ≠ 0#8 ∧
      OnStroke (coordValue x1) (coordValue y1) (coordValue x2) (coordValue y2) (width.toNat / 2) u v
  | .clear co => ChecksPass co c s
  | .skip _ => False

/-- PIXMEM goes from `s` to `t` by the paints of the command `i`, and by nothing else. -/
structure DrawnBy (i : Instr) (s t : State) : Prop where
  painted : ∀ c u v, inBounds s.cur.w.toNat s.cur.h.toNat u v = true → Paints s c u v i →
    PixelIs t.pixmem s.cur.w.toNat u v c
  kept : ∀ a, (∀ c u v, inBounds s.cur.w.toNat s.cur.h.toNat u v = true → Paints s c u v i →
    ¬ ByteOf s.cur.w.toNat u v a) → Memory.read t.pixmem a = Memory.read s.pixmem a

/-- A command that paints no pixel and leaves PIXMEM alone. -/
theorem DrawnBy.of_undrawn {i : Instr} {s t : State} (hi : ∀ c u v, ¬ Paints s c u v i)
    (hmem : t.pixmem = s.pixmem) : DrawnBy i s t :=
  ⟨fun c u v _ hp => absurd hp (hi c u v), fun _ _ => by rw [hmem]⟩

/-- Every command with a colour is discarded, or passes the checks of R100. -/
theorem exec_checks {i : Instr} {co : ColourOperand} (hi : DrawsIn i co) {s t : State}
    (h : exec i s = .next t) : ((∀ c, ¬ ChecksPass co c s) ∧ t.pixmem = s.pixmem) ∨
      ∃ c, ChecksPass co c s := by
  obtain ⟨draw, hdraw⟩ := exec_of_drawsIn hi s
  rw [hdraw] at h
  rcases withChecks_cases co s draw with ⟨hbad, he⟩ | ⟨_, hnone, he⟩ | ⟨c, hok, hr, _⟩
  · cases he.symm.trans h
    exact .inl ⟨fun c hpass => by simp [ChecksPass, hbad] at hpass, rfl⟩
  · cases he.symm.trans h
    exact .inl ⟨fun c hpass => by simp [ChecksPass, hnone] at hpass, rfl⟩
  · exact .inr ⟨c, hok, hr⟩

theorem ChecksPass.colour_unique {co : ColourOperand} {c d : Colour} {s : State}
    (hc : ChecksPass co c s) (hd : ChecksPass co d s) : c = d :=
  Option.some.inj (hc.2.symm.trans hd.2)

theorem Component.inBounds {w h : Nat} {m : Memory} {target : Colour} {x y u v : Int}
    (hseed : Machine.inBounds w h x y = true) (hc : Component w h m target x y u v) :
    Machine.inBounds w h u v = true := by
  cases hc with
  | seed => exact hseed
  | spread _ _ hb _ => exact hb

theorem exec_clear_drawnBy {co : ColourOperand} {c : Colour} {s t : State}
    (hpass : ChecksPass co c s) (h : exec (.clear co) s = .next t) : DrawnBy (.clear co) s t := by
  obtain ⟨t', ht', -, hpainted, hkept⟩ := clearPaintsTheWholeBuffer co c s hpass.1 hpass.2
  cases ht'.symm.trans h
  refine ⟨fun d u v hb hp => hpass.colour_unique hp ▸ hpainted u v hb, fun a ha => ?_⟩
  refine hkept a (Nat.not_lt.mp fun hlt => ?_)
  obtain ⟨u, v, hb, hbyte⟩ := exists_byteOf hlt
  exact ha c u v hb hpass hbyte

theorem exec_line_drawnBy {x1 y1 x2 y2 : Coord} {width : Byte} {co : ColourOperand} {c : Colour}
    {s t : State} (hpass : ChecksPass co c s) (h : exec (.line x1 y1 x2 y2 width co) s = .next t) :
    DrawnBy (.line x1 y1 x2 y2 width co) s t := by
  by_cases hw : width = 0#8
  · subst hw
    cases (execLine_badWidth hpass.1 hpass.2 x1 y1 x2 y2).symm.trans h
    exact .of_undrawn (fun _ _ _ ⟨_, hw, _⟩ => hw rfl) rfl
  · obtain ⟨t', ht', -, hpainted, hkept⟩ :=
      linePaintsItsStroke x1 y1 x2 y2 width co c s hpass.1 hpass.2 hw
    cases ht'.symm.trans h
    exact ⟨fun d u v hb ⟨hd, _, hon⟩ => hpass.colour_unique hd ▸ hpainted u v hb hon,
      fun a ha => hkept a fun u v hb hon => ha c u v hb ⟨hpass, hw, hon⟩⟩

theorem exec_fill_drawnBy {x y : Coord} {co : ColourOperand} {c : Colour} {s t : State}
    (hlegal : s.params.Legal) (hstk : s.stk = []) (hpass : ChecksPass co c s)
    (h : exec (.fill x y co) s = .next t) : DrawnBy (.fill x y co) s t := by
  have hfill := fillPaintsItsComponent x y co c s hlegal hstk hpass.1 hpass.2
  dsimp only at hfill
  split at hfill
  case isTrue hnoop =>
    cases hfill.symm.trans h
    refine .of_undrawn (fun d u v ⟨hd, hb, hne, _⟩ => ?_) rfl
    cases hpass.colour_unique hd
    rcases hnoop with hout | hsame
    · simp [hb] at hout
    · exact hne hsame
  case isFalse hdraws =>
    obtain ⟨hb, hne⟩ := not_or.mp hdraws
    rw [Bool.not_eq_false] at hb
    obtain ⟨t', K, ht', -, hK, -, -, -, hpainted, hkept⟩ := hfill
    cases ht'.symm.trans h
    refine ⟨fun d u v _ ⟨hd, _, _, hcomp⟩ => ?_, fun a ha => hkept a fun p hp => ?_⟩
    · exact hpass.colour_unique hd ▸ hpainted (u, v) ((hK (u, v)).mpr hcomp)
    · have hcomp := (hK p).mp hp
      exact ha c p.1 p.2 (hcomp.inBounds hb) ⟨hpass, hb, hne, hcomp⟩

/-- What every command draws, in a state with legal parameters and STK empty. -/
theorem exec_drawnBy {i : Instr} {s t : State} (hlegal : s.params.Legal) (hstk : s.stk = [])
    (h : exec i s = .next t) : DrawnBy i s t := by
  cases i with
  | skip op =>
    cases h
    exact .of_undrawn (fun _ _ _ hp => hp) rfl
  | clear co =>
    rcases exec_checks (.inr (.inr rfl)) h with ⟨hfail, hmem⟩ | ⟨c, hpass⟩
    · exact .of_undrawn (fun c _ _ hp => hfail c hp) hmem
    · exact exec_clear_drawnBy hpass h
  | line x1 y1 x2 y2 width co =>
    rcases exec_checks (.inr (.inl ⟨_, _, _, _, _, rfl⟩)) h with ⟨hfail, hmem⟩ | ⟨c, hpass⟩
    · exact .of_undrawn (fun c _ _ hp => hfail c hp.1) hmem
    · exact exec_line_drawnBy hpass h
  | fill x y co =>
    rcases exec_checks (.inl ⟨_, _, rfl⟩) h with ⟨hfail, hmem⟩ | ⟨c, hpass⟩
    · exact .of_undrawn (fun c _ _ hp => hfail c hp.1) hmem
    · exact exec_fill_drawnBy hlegal hstk hpass h

/-! ### Commands that draw alike -/

/-- What a command reads to draw: the parameters, CUR and the buffer of the latched geometry. -/
structure DrawAlike (s t : State) : Prop where
  params : s.params = t.params
  cur : s.cur = t.cur
  buffer : SameBuffer s.cur.w.toNat s.cur.h.toNat s.pixmem t.pixmem

theorem DrawAlike.symm {s t : State} (hst : DrawAlike s t) : DrawAlike t s :=
  ⟨hst.params.symm, hst.cur.symm, fun a ha => (hst.buffer a (hst.cur ▸ ha)).symm⟩

theorem Component.of_sameBuffer {w h : Nat} {m n : Memory} {target : Colour} {x y u v : Int}
    (hmn : SameBuffer w h m n) (hc : Component w h m target x y u v) :
    Component w h n target x y u v := by
  induction hc with
  | seed => exact .seed
  | spread _ hnext hb hrgb ih => exact .spread ih hnext hb ((hmn.rgbAt_eq hb).symm.trans hrgb)

theorem ChecksPass.of_drawAlike {co : ColourOperand} {c : Colour} {s t : State}
    (hst : DrawAlike s t) (hc : ChecksPass co c s) : ChecksPass co c t := by
  rwa [ChecksPass, ← hst.params, ← hst.cur]

theorem Paints.of_drawAlike {i : Instr} {s t : State} {c : Colour} {u v : Int}
    (hst : DrawAlike s t) (hp : Paints s c u v i) : Paints t c u v i := by
  cases i with
  | skip op => exact hp
  | clear co => exact ChecksPass.of_drawAlike hst hp
  | line x1 y1 x2 y2 width co =>
    obtain ⟨hpass, hw, hon⟩ := hp
    exact ⟨hpass.of_drawAlike hst, hw, hon⟩
  | fill x y co =>
    obtain ⟨hpass, hb, hne, hcomp⟩ := hp
    refine ⟨hpass.of_drawAlike hst, ?_⟩
    rw [← hst.cur, ← hst.buffer.rgbAt_eq hb]
    exact ⟨hb, hne, hcomp.of_sameBuffer hst.buffer⟩

/-- A byte of the buffer is either painted by both commands, in one colour, or kept by both. -/
theorem DrawnBy.sameBuffer {i : Instr} {s t s' t' : State} (hst : DrawAlike s t)
    (hs : DrawnBy i s s') (ht : DrawnBy i t t') :
    SameBuffer s.cur.w.toNat s.cur.h.toNat s'.pixmem t'.pixmem := by
  have hpaints : ∀ c u v, Paints s c u v i ↔ Paints t c u v i := fun c u v =>
    ⟨.of_drawAlike hst, .of_drawAlike hst.symm⟩
  obtain ⟨hpainted, hkept⟩ := ht
  simp only [← hst.cur, ← hpaints] at hpainted hkept
  intro a ha
  by_cases hbyte : ∃ c u v, inBounds s.cur.w.toNat s.cur.h.toNat u v = true ∧ Paints s c u v i ∧
      ByteOf s.cur.w.toNat u v a
  · obtain ⟨c, u, v, hb, hp, hau⟩ := hbyte
    exact (hs.painted c u v hb hp).read_eq (hpainted c u v hb hp) hau
  · have hout : ∀ c u v, inBounds s.cur.w.toNat s.cur.h.toNat u v = true → Paints s c u v i →
        ¬ ByteOf s.cur.w.toNat u v a := fun c u v hb hp hau => hbyte ⟨c, u, v, hb, hp, hau⟩
    rw [hs.kept a hout, hkept a hout, hst.buffer a ha]

/-! ### Replay -/

/-- While a command runs, the buffer of CFG_DIM is that of CUR (10_state.md R41, R162). -/
theorem SameReplay.drawAlike {s t : State} (hs : Inv s) (hst : SameReplay s t) (hb : s.busy = true) :
    DrawAlike s t := by
  obtain ⟨hw, hh⟩ := hs.geometryLatched hb
  refine ⟨hst.params, hst.cur, ?_⟩
  rw [hw, hh]
  exact hst.buffer

/-- A completion in two states that replay alike (40_dispatch.md R99, R104). -/
theorem SameReplay.finishCommand {i : Instr} {s t u v : State} (hs : Inv s) (ht : Inv t)
    (hst : SameReplay s t) (hb : s.busy = true) (hu : exec i s = .next u) (hv : exec i t = .next v) :
    SameReplay (finishCommand u) (finishCommand v) := by
  have fu := exec_frame hu
  have fv := exec_frame hv
  have hbuffer := (exec_drawnBy hs.paramsLegal hs.stkEmpty hu).sameBuffer (hst.drawAlike hs hb)
    (exec_drawnBy ht.paramsLegal ht.stkEmpty hv)
  obtain ⟨hw, hh⟩ := hs.geometryLatched hb
  rw [hw, hh] at hbuffer
  exact {
    params := fu.params.trans (hst.params.trans fv.params.symm)
    cfgDim := fu.cfgDim.trans (hst.cfgDim.trans fv.cfgDim.symm)
    run := fu.run.trans (hst.run.trans fv.run.symm)
    busy := rfl
    queue := fu.queue.trans (hst.queue.trans fv.queue.symm)
    cur := fu.cur.trans (hst.cur.trans fv.cur.symm)
    stk := rfl
    buffer := by
      rw [bufferBytes, cfgW, cfgH, finishCommand_cfgDim, fu.cfgDim]
      exact hbuffer }

/-- The state after the dispatch of `p`, `q` being the rest of Q (40_dispatch.md R98). -/
def dispatched (p : Packet) (q : List Packet) (s : State) : State :=
  latch p { s with queue := q, bus := .notReady }

/-- A dispatch settles CUR by the packet and CFG_DIM, whatever CUR held (R98). -/
theorem dispatched_cur {s t : State} (hdim : s.cfgDim = t.cfgDim) (p : Packet) (q : List Packet) :
    (dispatched p q s).cur = (dispatched p q t).cur := by
  simp [dispatched, cfgW, cfgH, hdim]

/-- The engine's turn in two states that replay alike: the same step in both (40_dispatch.md R97). -/
theorem SameReplay.engineStep {s t s' : State} (hs : Inv s) (ht : Inv t) (hst : SameReplay s t)
    (h : engineStep s = .next s') : ∃ t', engineStep t = .next t' ∧ SameReplay s' t' := by
  have hbus : SameReplay { s with bus := .notReady } { t with bus := .notReady } := { hst with }
  rcases engineStep_next h with ⟨hb, u, hu, rfl⟩ | ⟨hb, hrun, p, rest, hq, rfl⟩ | ⟨hb, hd, rfl⟩
  · obtain ⟨t', ht'⟩ := engineStep_answers_of_inv ht
    obtain ⟨v, hv, rfl⟩ := engineStep_next_of_running (hst.busy ▸ hb) ht'
    have hcommand : decodePacket t.cur.packet = decodePacket s.cur.packet := by rw [hst.cur]
    rw [hcommand] at hv
    exact ⟨_, ht', hbus.finishCommand (hs.withBusInputs _ _) (ht.withBusInputs _ _) hb hu hv⟩
  · exact ⟨_, engineStep_of_dispatch (hst.busy ▸ hb) (hst.run ▸ hrun) (hst.queue ▸ hq),
      { hbus with busy := rfl, queue := rfl, cur := dispatched_cur hst.cfgDim p rest, stk := rfl }⟩
  · have hdt : dispatchEnabled t = false := by
      rwa [dispatchEnabled, ← hst.run, ← hst.busy, ← hst.queue]
    exact ⟨_, engineStep_of_idle (hst.busy ▸ hb) hdt, hbus⟩

/-- Settles O51, by induction on the steps, each of which is the engine's turn. -/
theorem replayIsDeterministic : Obligations.ReplayIsDeterministic := by
  intro n
  induction n with
  | zero =>
    intro s t s' _ _ _ _ hst hrun
    cases hrun
    exact ⟨t, rfl, hst⟩
  | succ n ih =>
    intro s t s' hs ht hsi hti hst hrun
    obtain ⟨u, hu⟩ := engineStep_answers_of_inv hs
    obtain ⟨v, hv, huv⟩ := hst.engineStep hs ht hu
    obtain ⟨_, _, hui⟩ := engineStep_hostFields hu
    obtain ⟨_, _, hvi⟩ := engineStep_hostFields hv
    have hstep : step s = .next u := (step_of_silent hsi).trans hu
    have hstep' : step t = .next v := (step_of_silent hti).trans hv
    rw [run_succ_of_step (M := Sys2Proof.core) hstep] at hrun
    obtain ⟨t', hrun', hst'⟩ := ih u v s' (hs.engineStep hu) (ht.engineStep hv) (hui.trans hsi)
      (hvi.trans hti) huv hrun
    exact ⟨t', (run_succ_of_step (M := Sys2Proof.core) hstep' n).trans hrun', hst'⟩

/-! ### Replay from a CLEAR -/

/-- The dispatch and the completion of a CLEAR at the head of Q (40_dispatch.md R98, R99). -/
theorem run_clear {s : State} {p : Packet} {q : List Packet} {co : ColourOperand} {c : Colour}
    (hi : s.inputs = []) (hrun : s.run = true) (hb : s.busy = false) (hq : s.queue = p :: q)
    (hp : decodePacket p = .clear co) (hr : resolveColour co = some c)
    (hok : configOk s.params (cfgW s).toNat (cfgH s).toNat = true) :
    Host.Core.run Sys2Proof.core 2 s = .next (finishCommand (clearTo c (dispatched p q s))) := by
  have hdispatch : step s = .next (dispatched p q s) :=
    (step_of_silent hi).trans (engineStep_of_dispatch hb hrun hq)
  have hexec : exec (decodePacket p) (dispatched p q s) = .next (clearTo c (dispatched p q s)) := by
    rw [hp]
    exact exec_clear_of_checks hok hr
  have hcomplete : step (dispatched p q s) = .next (finishCommand (clearTo c (dispatched p q s))) :=
    calc step (dispatched p q s) = engineStep (dispatched p q s) := step_of_silent hi
      _ = complete (dispatched p q s) := engineStep_of_running rfl
      _ = .next (finishCommand (clearTo c (dispatched p q s))) := complete_of_exec hexec
  exact (run_succ_of_step (M := Sys2Proof.core) hdispatch 1).trans
    (run_succ_of_step (M := Sys2Proof.core) hcomplete 0)

/-- After a CLEAR of one geometry both buffers hold one opaque colour. -/
theorem clearTo_sameBuffer {s t : State} (hcur : s.cur = t.cur) (c : Colour) :
    SameBuffer s.cur.w.toNat s.cur.h.toNat (clearTo c s).pixmem (clearTo c t).pixmem := by
  refine sameBuffer_of_pixelIs (fun u v hb => pixelIs_clearTo hb c) fun u v hb => ?_
  rw [hcur] at hb ⊢
  exact pixelIs_clearTo hb c

/-- Settles O52: the CLEAR paints over whatever the two buffers held. -/
theorem replayFromClearForgetsPixmem : Obligations.ReplayFromClearForgetsPixmem := by
  intro s t p q co c _ _ hsi hti hparams hdim hsr htr hsb htb hsq htq hp hr hok
  have hokt : configOk t.params (cfgW t).toNat (cfgH t).toNat = true := by
    rwa [← hparams, cfgW, cfgH, ← hdim]
  have hcur : (dispatched p q s).cur = (dispatched p q t).cur := dispatched_cur hdim p q
  exact ⟨_, _, run_clear hsi hsr hsb hsq hp hr hok, run_clear hti htr htb htq hp hr hokt,
    { params := hparams, cfgDim := hdim, run := hsr.trans htr.symm, busy := rfl, queue := rfl,
      cur := hcur, stk := rfl, buffer := clearTo_sameBuffer hcur c }, rfl⟩

end Sys2Proof.Machine
end

section
/-! PROOFS. The interrupt output (60_exceptions.md R177, R178): irq is 1 when some event is both pending and
enabled, and these events are the bits that STATUS and IRQ_EN have in common. -/

namespace Sys2Proof.Machine

/-- The events of both sets. -/
def Events.inter (e f : Events) : Events :=
  ⟨e.done && f.done, e.err && f.err, e.skip && f.skip, e.idle && f.idle, e.ovf && f.ovf⟩

theorem flag_and (a b : Bool) : flag (a && b) = flag a &&& flag b := by
  cases a <;> cases b <;> rfl

theorem bits_inter (e f : Events) : (e.inter f).bits = e.bits &&& f.bits := by
  simp only [Events.bits, Events.inter, flag_and]
  iterate 4 rw [BitVec.and_append]

theorem bits_eq_zero_iff (e : Events) : e.bits = 0#5 ↔ e = Events.none := by
  obtain ⟨done, err, skip, idle, ovf⟩ := e
  revert done err skip idle ovf
  decide

/-- irq is the OR of the five sources (R178): it is 0 when each of them is. -/
theorem irq_eq_false_iff (s : State) :
    irq s = false ↔ s.events.inter s.irqEn = Events.none := by
  simp only [irq, Events.inter, Events.none, Events.mk.injEq, Bool.or_eq_false_iff, and_assoc]

/-- IRQ_EN holds events alone, so no other field of STATUS passes its mask (R23, R33). -/
theorem statusWord_and_irqEnWord (s : State) :
    statusWord s &&& irqEnWord s = 0#26 ++ (s.events.inter s.irqEn).bits ++ 0#1 := by
  have hmask : irqEnWord s =
      0#8 ++ 0#8 ++ 0#4 ++ 0#4 ++ 0#1 ++ 0#1 ++ s.irqEn.bits ++ 0#1 := rfl
  rw [hmask, statusWord, bits_inter]
  iterate 7 rw [BitVec.and_append]
  simp only [BitVec.and_zero]
  rfl

/-- Events in the layout of STATUS and IRQ_EN are the word 0 when there are none. -/
theorem eventsWord_eq_zero_iff (e : Events) : 0#26 ++ e.bits ++ 0#1 = 0#32 ↔ e = Events.none :=
  calc 0#26 ++ e.bits ++ 0#1 = 0#32
      ↔ 0#26 ++ e.bits ++ 0#1 = 0#26 ++ 0#5 ++ 0#1 := Iff.rfl
    _ ↔ e.bits = 0#5 := by rw [BitVec.append_left_inj, BitVec.append_right_inj]
    _ ↔ e = Events.none := bits_eq_zero_iff e

/-- Settles O41: the bits common to STATUS and IRQ_EN are the events that irq is the OR of. -/
theorem irqIsEnabledAndPending : Obligations.IrqIsEnabledAndPending := by
  intro s
  rw [statusWord_and_irqEnWord, ne_eq, eventsWord_eq_zero_iff, ← irq_eq_false_iff, Bool.not_eq_false]

end Sys2Proof.Machine
end

section
/-! PROOFS. The block right after reset (70_reset_and_hazards.md R195 to R199): PIXMEM across a reset, what
the registers read as, and that the invariant and the FILL counters hold there. -/

namespace Sys2Proof.Machine

/-! ### PIXMEM across a reset -/

@[simp] theorem resetStep_pixmem (written : List Nat) (s : State) :
    (resetStep written s).pixmem = memoryAcrossReset written s := rfl

theorem memoryAcrossReset_of_exec {s t : State} (hb : s.busy = true)
    (h : exec (decodePacket s.cur.packet) s = .next t) (written : List Nat) :
    memoryAcrossReset written s = abandonedMemory s.pixmem t.pixmem written := by
  simp only [memoryAcrossReset, hb, h, if_true]

/-- Settles O45: an idle block abandons no command, and a running one leaves each byte as
`read_abandonedMemory` says. -/
theorem resetKeepsPixmem : Obligations.ResetKeepsPixmem := by
  intro s written rest hi
  refine ⟨_, step_of_reset hi, rfl, fun hidle => ?_, fun hbusy u hexec a => ?_⟩
  · rw [resetStep_of_idle (s := { s with inputs := rest }) hidle, powerUp_pixmem]
  · rw [resetStep_pixmem, memoryAcrossReset_of_exec (s := { s with inputs := rest }) hbusy hexec,
      read_abandonedMemory]

/-! ### The registers right after reset -/

theorem statusWord_powerUp (p : Params) (m : Memory) (ins : List Input) :
    statusWord (State.powerUp p m ins) = 0#32 := by
  simp only [statusWord, qcount, powerUp_queue, powerUp_errCode, powerUp_changed, powerUp_events,
    powerUp_busy]
  decide

theorem irqEnWord_powerUp (p : Params) (m : Memory) (ins : List Input) :
    irqEnWord (State.powerUp p m ins) = 0#32 := (eventsWord_eq_zero_iff _).mpr rfl

/-- R199's reason: irq is 0 while STATUS and IRQ_EN are, since it is a function of both (R177). -/
theorem irq_powerUp (p : Params) (m : Memory) (ins : List Input) :
    irq (State.powerUp p m ins) = false := by
  rw [← Bool.not_eq_true, irqIsEnabledAndPending, statusWord_powerUp, irqEnWord_powerUp]
  decide

/-- Settles O44: each register reads the reset value of the field behind it (R196); STATUS and IRQ_EN are
words of several fields, and irq follows from these two. -/
theorem resetRegisterValues : Obligations.ResetRegisterValues := fun p m ins =>
  have hctrl : readReg (State.powerUp p m ins) .ctrl = 0#32 := by
    simp only [readReg, powerUp_run]
    decide
  have hstatus : readReg (State.powerUp p m ins) .status = 0#32 := statusWord_powerUp p m ins
  have hirqEn : readReg (State.powerUp p m ins) .irqEn = 0#32 := irqEnWord_powerUp p m ins
  ⟨rfl, rfl, rfl, powerUp_cfgDim p m ins, hctrl, hstatus, hirqEn, powerUp_fillCnt p m ins,
    powerUp_skipCnt p m ins, powerUp_cmd0 p m ins, powerUp_cmd1 p m ins, powerUp_cmd2 p m ins,
    powerUp_cmd3 p m ins, rfl, fun _ => rfl, powerUp_queue p m ins, powerUp_stk p m ins,
    powerUp_busy p m ins, irq_powerUp p m ins⟩

/-! ### The invariant right after reset -/

/-- A reset sets every field that the invariant ties together; the parameters and PIXMEM it does not set. -/
theorem inv_powerUp {p : Params} {m : Memory} (hp : p.Legal) (hm : PixmemFits p m) (ins : List Input) :
    Inv (State.powerUp p m ins) where
  paramsLegal := hp
  pixmemCanonical := hm.1
  pixmemInside := hm.2
  queueBound := Nat.zero_le _
  stkEmpty := powerUp_stk p m ins
  geometryLatched := fun hbusy => absurd hbusy (by simp)
  errCodeAgrees := by simp [Events.none]

theorem countInv_powerUp (p : Params) (m : Memory) (ins : List Input) :
    CountInv (State.powerUp p m ins) where
  fillCntBound := Nat.zero_le _
  changedAgrees := by simp

theorem reference_legal : Params.reference.Legal := by decide

theorem pixmemFits_nil (p : Params) : PixmemFits p [] :=
  ⟨⟨.nil, nofun⟩, nofun⟩

/-- Settles O46; the parameters and the PIXMEM of `State.reset` are an instance. -/
theorem invariantHoldsAtReset : Obligations.InvariantHoldsAtReset :=
  ⟨fun p m ins hp hwf hinside => ⟨inv_powerUp hp ⟨hwf, hinside⟩ ins, countInv_powerUp p m ins⟩,
    inv_powerUp reference_legal (pixmemFits_nil _) [], countInv_powerUp _ _ _⟩

end Sys2Proof.Machine
end
